-- ==== Sys2Proof/Word.lean ====
section
/-! DEFINITION. The word types of the block: a byte of the Link, a 32-bit register value, a 16-bit
register address and the 48-bit unified write word (spec R7, R59), and the byte strings built from them. -/

namespace Sys2Proof

/-- One byte on the Link, or the 8-bit `opsel` of a function request (R60, R70). -/
abbrev Byte := BitVec 8

/-- A register value: "value: unsigned 32-bit" (R7, R45). -/
abbrev Word := BitVec 32

/-- A register address: "unsigned 16-bit offset" inside its space (R7, R40). -/
abbrev Addr := BitVec 16

/-- The unified write word: address in bits 47..32, value in bits 31..0 (R59). -/
abbrev Word48 := BitVec 48

/-- The bytes of one Link frame (R55 b). -/
abbrev Frame := List Byte

/-- The bytes of one response line, terminator included (R64). -/
abbrev Line := List Byte

end Sys2Proof
end

