-- ==== Sys2Proof/Config.lean ====
section
/-! DEFINITION. What an implementation fixes: the profile `P` of spec R6 with its default `P0`, the
constraints of R6 to R10 and R67, and the free values (R13 `draw`), which have no body. -/

namespace Sys2Proof

/-- The tie rule of `round` (R6 `ROUND_TIE`, R12). -/
inductive RoundTie where
  | halfEven
  | halfAway
deriving DecidableEq, Repr

/-- The register-write framing: the one mode that changes decoding (R6 `PROTO_REV`, R61). -/
inductive ProtoRev where
  | legacy
  | unified
deriving DecidableEq, Repr

/-- What register 1 of a slot holds (R6 `WAVE_FIELD_MODE`, R27). -/
inductive WaveFieldMode where
  | waveId
  | addrLen
deriving DecidableEq, Repr

/-- The register address of a sample pair (R6 `WAVE_ADDR_MODE`, R42). -/
inductive WaveAddrMode where
  | pairIndex
  | sampleAddress
deriving DecidableEq, Repr

/-- Which sample of a pair is the low field (R6 `PAIR_ORDER`, R93). -/
inductive PairOrder where
  | evenLow
  | evenHigh
deriving DecidableEq, Repr

/-- The fourteen commands of the command-byte table (R66), one constructor a byte.  What the four
write bytes mean depends on `PROTO_REV` (R61). -/
inductive Cmd where
  | version | regdump | reset | chsel | chen
  | pdefRd | pdefWr | waveRd | waveWr | dcWr | miscRd | miscWr
  | errq | dataset
deriving DecidableEq, Repr

/-- The fourteen `CMD_*` fields of the profile (R66). -/
structure CommandBytes where
  version : Byte
  regdump : Byte
  reset   : Byte
  chsel   : Byte
  chen    : Byte
  pdefRd  : Byte
  pdefWr  : Byte
  waveRd  : Byte
  waveWr  : Byte
  dcWr    : Byte
  miscRd  : Byte
  miscWr  : Byte
  errq    : Byte
  dataset : Byte
deriving DecidableEq, Repr

/-- The byte a profile gives a command (R66). -/
def CommandBytes.byteOf (b : CommandBytes) : Cmd → Byte
  | .version => b.version
  | .regdump => b.regdump
  | .reset   => b.reset
  | .chsel   => b.chsel
  | .chen    => b.chen
  | .pdefRd  => b.pdefRd
  | .pdefWr  => b.pdefWr
  | .waveRd  => b.waveRd
  | .waveWr  => b.waveWr
  | .dcWr    => b.dcWr
  | .miscRd  => b.miscRd
  | .miscWr  => b.miscWr
  | .errq    => b.errq
  | .dataset => b.dataset

/-- Every command, in the order of the table of R66. -/
def Cmd.all : List Cmd :=
  [.version, .regdump, .reset, .chsel, .chen, .pdefRd, .pdefWr, .waveRd, .waveWr, .dcWr,
   .miscRd, .miscWr, .errq, .dataset]

/-- The profile `P`: every firmware-dependent constant, as R6 lists them, and `PDEF_KEEP_UNUSED` of R30.
`isErrorLine`, which has no default, is `Config.isErrorLine`. -/
structure Profile where
  /-- `ADDR_BITS`: waveform address width and sample width (R8). -/
  addrBits : Nat
  /-- `DAC_BITS_RES`: DAC code width. -/
  dacBitsRes : Nat
  /-- `WAVE_RAM_CAPACITY`: samples per channel. -/
  waveRamCapacity : Nat
  /-- `C_MAX_CHANNELS`. -/
  cMaxChannels : Nat
  /-- `N_SLOTS`: pulse-definition slots per channel context. -/
  nSlots : Nat
  /-- `GAIN_BITS`: the gain is scaled by `2^(GAIN_BITS-1)`. -/
  gainBits : Nat
  /-- `FRAC_BITS`: the time factor is scaled by `2^FRAC_BITS`. -/
  fracBits : Nat
  /-- `PULSE_START_MIN`: least start time of entry 0. -/
  pulseStartMin : Nat
  /-- `ROUND_TIE`. -/
  roundTie : RoundTie
  /-- `PROTO_REV`. -/
  protoRev : ProtoRev
  /-- `WAVE_FIELD_MODE`. -/
  waveFieldMode : WaveFieldMode
  /-- `STRICT`: out-of-range encodings are refused (`true`) or sent truncated (`false`). -/
  strict : Bool
  /-- `WAVE_ADDR_MODE`. -/
  waveAddrMode : WaveAddrMode
  /-- `PAIR_ORDER`. -/
  pairOrder : PairOrder
  /-- `CH_ALL`: the operand of `CHSEL` that selects all channels. -/
  chAll : Nat
  /-- `ERR_KINDS`: the finite ordered list of channel-error kinds. -/
  errKinds : List String
  /-- `PDEF_KEEP_UNUSED` (R30): a register keeps the bits outside its fields. -/
  pdefKeepUnused : Bool
  /-- `CMD_*`. -/
  cmd : CommandBytes
deriving DecidableEq, Repr

/-- The synthetic command bytes of `P0` (R66): not the firmware's. -/
def CommandBytes.p0 : CommandBytes where
  version := 0x80#8
  regdump := 0x81#8
  reset   := 0x82#8
  chsel   := 0x83#8
  chen    := 0x84#8
  pdefRd  := 0x85#8
  pdefWr  := 0x86#8
  waveRd  := 0x87#8
  waveWr  := 0x88#8
  dcWr    := 0x89#8
  miscRd  := 0x8A#8
  miscWr  := 0x8B#8
  errq    := 0x8C#8
  dataset := 0x8D#8

/-- The default profile `P0` (R6, table). DESIGN CHOICE of the spec itself; unsafe (assumption 1). -/
def Profile.p0 : Profile where
  addrBits := 12
  dacBitsRes := 16
  waveRamCapacity := 4096
  cMaxChannels := 32
  nSlots := 256
  gainBits := 16
  fracBits := 8
  pulseStartMin := 4
  roundTie := .halfEven
  protoRev := .legacy
  waveFieldMode := .waveId
  strict := false
  waveAddrMode := .pairIndex
  pairOrder := .evenLow
  chAll := 32
  errKinds := ["X"]
  pdefKeepUnused := true
  cmd := .p0

/-- `SMAX = 2^ADDR_BITS - 1`, the largest sample (`SAMPLE_BITS = ADDR_BITS`, R8, R90). -/
def Profile.smax (P : Profile) : Nat := 2 ^ P.addrBits - 1

/-- The constraints on a profile. R6 to R10 and R67 state most of them; the four marked DEDUCED follow
from what the fields are for (assumption 2, safe: they are only ever a premise of a claim). -/
structure Profile.WF (P : Profile) : Prop where
  /-- "12–16 bits by revision" (R6). -/
  addrBits_ge : 12 ≤ P.addrBits
  addrBits_le : P.addrBits ≤ 16
  /-- "12–16 bits by revision" (R6). -/
  dacBits_ge : 12 ≤ P.dacBitsRes
  dacBits_le : P.dacBitsRes ≤ 16
  /-- The capacity is even (R6). -/
  capacity_even : P.waveRamCapacity % 2 = 0
  /-- DEDUCED: every used WAVE register address is an unsigned 16-bit offset (R40, R42). -/
  capacity_le : P.waveRamCapacity / 2 ≤ 65536
  capacity_le_sample : P.waveAddrMode = .sampleAddress → P.waveRamCapacity ≤ 65536
  /-- The masks are 32-bit (R6). -/
  channels_le : P.cMaxChannels ≤ 32
  /-- A register address is a 16-bit offset (R6). -/
  slots_le : 4 * P.nSlots ≤ 65536
  /-- DEDUCED: the scaling `2^(GAIN_BITS-1)` is by an integer (R6). -/
  gainBits_ge : 1 ≤ P.gainBits
  /-- R9. -/
  gainBits_le : P.gainBits ≤ 16
  /-- R9. -/
  fracBits_le : P.fracBits ≤ 15
  /-- R10. -/
  startMin_ge : 4 ≤ P.pulseStartMin
  /-- R6. -/
  startMin_le : P.pulseStartMin ≤ 0xFFFFFF
  /-- DEDUCED: `CH_ALL` is no channel number, or it could not select all channels (R124). -/
  chAll_ge : P.cMaxChannels ≤ P.chAll
  /-- The fourteen command bytes are pairwise distinct (R67). -/
  cmd_nodup : (Cmd.all.map P.cmd.byteOf).Nodup
  /-- None of them is an ASCII digit (R67). -/
  cmd_not_digit : ∀ c ∈ Cmd.all, ¬ (0x30 ≤ (P.cmd.byteOf c).toNat ∧ (P.cmd.byteOf c).toNat ≤ 0x39)

/-- `draw(32)` of a commit that finds nothing staged ("committing without staging applies garbage",
R33), by the draw counter. No body: nothing constrains it (assumption 4). -/
opaque Config.garbage : Nat → Word

/-- The reset draw of `PDEF[ch][a]` (R39), by reset epoch, channel and address (assumption 5). -/
opaque Config.resetPdef : Nat → Nat → Nat → Word

/-- The reset draw of `WRAM[ch][a]` before it is cut to `SAMPLE_BITS` bits (R39, assumption 5). -/
opaque Config.resetSample : Nat → Nat → Nat → Nat

/-- The reset draw of `DCREG[a]` (R39, assumption 5). -/
opaque Config.resetDc : Nat → Nat → Word

/-- The reset draw of `MISC[a]` (R39, assumption 5). -/
opaque Config.resetMisc : Nat → Nat → Word

/-- `CHERR[kind]` as the sequencer has it when an `ERRQ` asks (R35), by the draw counter and the
position of the kind in `ERR_KINDS` (assumption 6). -/
opaque Config.cherr : Nat → Nat → Word

/-- The lines the device emits after a command beside the response a rule states (R115 c, R126, R127),
by the draw counter (assumption 7). -/
opaque Config.emitted : Nat → List Line

/-- The profile predicate `isErrorLine` (R65): the marker is not in the source and has no default
(D39, assumption 7). -/
opaque Config.isErrorLine : Line → Bool

/-- The first version token the handshake requires (R147): its text is not in the source
(assumption 8). -/
opaque Config.versionToken1 : List Byte

/-- The second version token the handshake requires (R147, assumption 8). -/
opaque Config.versionToken2 : List Byte

end Sys2Proof
end

