-- ==== Sys2Proof/Syntax.lean ====
section
/-! DEFINITION. The operations of the block: `Instr`, one constructor for each row of
spec/opcode_table.json, the operand types of R22 and R70, and `Request`, the form in which the host
presents one operation (R55). -/

namespace Sys2Proof

/-- The `wave` operand of `ENCPDEF` and the `wave` field of a decoded definition: a WaveID, or the
explicit address and length (R27, R102). -/
inductive WaveOperand where
  | id (waveId : Nat)
  | addrLen (waveAddr waveLen : Nat)
deriving DecidableEq, Repr

/-- The reference mode of `V2DAC` (R92). -/
inductive RefMode where
  | internal
  | external
deriving DecidableEq, Repr

/-- The operand of `SELECTCH`: an integer, or all channels (R138). -/
inductive ChannelArg where
  | channel (c : Int)
  | all
deriving DecidableEq, Repr

/-- The operations, one constructor for each row of the opcode table. -/
inductive Instr where
  -- function operations (R70)
  | evalpoly (degree : Nat) (x : Rat) (coefficients : List Rat)
  | pshape (currentTime startTime riseTicks : Int) (timeFactor : Rat) (holdTicks : Int) (gain : Rat)
      (coefficients : List Rat)
  | synth (waveLength : Nat) (coefficients : List Rat)
  | v2dac (voltage referenceVoltage : Rat) (referenceMode : RefMode)
  | packpair (first second : Nat)
  | unpackpair (word : Word)
  | packtable (samples : List Nat)
  | mkwaveid (length startAddress : Nat)
  | unwaveid (waveId : Word)
  | encpdef (entry startTime : Nat) (wave : WaveOperand) (gain timeFactor : Rat) (sustain : Nat)
  | decpdef (r0 r1 r2 r3 : Word)
  | encw (address value : Nat) (commandByte : Byte)
  | deccherr (mapping : List (String × Word))
  | illegalFn (opsel : Byte)
  -- device commands (R66)
  | version
  | regdump
  | reset
  | chsel (c : Nat)
  | chen (m : Word)
  | readPdef (address : Addr)
  | commitPdef (address : Addr)
  | uwritePdef (word48 : Word48)
  | readWave (address : Addr)
  | commitWave (address : Addr)
  | uwriteWave (word48 : Word48)
  | commitDc (address : Addr)
  | uwriteDc (word48 : Word48)
  | readMisc (address : Addr)
  | commitMisc (address : Addr)
  | uwriteMisc (word48 : Word48)
  | errq
  | stage (value : Word)
  | illegalFrame (digits : List Byte) (last : Byte)
  -- composite sequences (R73)
  | regwritePdef (address value : Nat)
  | regwriteWave (address value : Nat)
  | regwriteDc (address value : Nat)
  | regwriteMisc (address value : Nat)
  | selectch (c : ChannelArg)
  | writepdef (wave : WaveOperand) (startTime : Nat) (gain timeFactor : Rat) (sustain : Nat)
      (entry : Option Nat)
  | findslot
  | writewave (startAddress : Nat) (samples : List Nat) (broadcastAll : Bool)
  | readwave (startAddress length : Nat)
  | clearpdef
  | clearwave
  | readerrs
deriving DecidableEq, Repr

/-- A typed operand of a function request: "the operands are typed values", without a bit layout (R70). -/
inductive Value where
  | nat (n : Nat)
  | int (z : Int)
  | rat (q : Rat)
  | rats (qs : List Rat)
  | nats (ns : List Nat)
  | mode (m : RefMode)
  | wave (w : WaveOperand)
  | word (w : Word)
  | byte (b : Byte)
  | mapping (m : List (String × Word))
deriving DecidableEq, Repr

/-- One operation as the host presents it: a function request (R70), the bytes of one Link frame (R60 to
R68), or a call of a composite sequence, which "has no encoding of its own" (R73). -/
inductive Request where
  | fn (opsel : Byte) (operands : List Value)
  | frame (bytes : Frame)
  | composite (i : Instr)
deriving DecidableEq, Repr

/-- Why a request is no operation at all. The spec gives none of these an effect; each refuses the run
(safe: assumption 9). -/
inductive DecodeError where
  /-- A function request whose operands do not have the types of the operation its `opsel` names (R70). -/
  | operandTypes (opsel : Byte)
  /-- Digits with no command byte after them: the "incomplete tail" of R75. -/
  | incompleteFrame
  /-- Bytes that go on after the first command byte: more than one frame (R75). -/
  | notOneFrame
  /-- A composite call that names an operation which is no composite sequence (R73). -/
  | notComposite
deriving DecidableEq, Repr

/-- The composite sequences: the rows of the table with format PSEUDO (R73). -/
def Instr.isComposite : Instr → Bool
  | .evalpoly _ _ _ => false
  | .pshape _ _ _ _ _ _ _ => false
  | .synth _ _ => false
  | .v2dac _ _ _ => false
  | .packpair _ _ => false
  | .unpackpair _ => false
  | .packtable _ => false
  | .mkwaveid _ _ => false
  | .unwaveid _ => false
  | .encpdef _ _ _ _ _ _ => false
  | .decpdef _ _ _ _ => false
  | .encw _ _ _ => false
  | .deccherr _ => false
  | .illegalFn _ => false
  | .version => false
  | .regdump => false
  | .reset => false
  | .chsel _ => false
  | .chen _ => false
  | .readPdef _ => false
  | .commitPdef _ => false
  | .uwritePdef _ => false
  | .readWave _ => false
  | .commitWave _ => false
  | .uwriteWave _ => false
  | .commitDc _ => false
  | .uwriteDc _ => false
  | .readMisc _ => false
  | .commitMisc _ => false
  | .uwriteMisc _ => false
  | .errq => false
  | .stage _ => false
  | .illegalFrame _ _ => false
  | .regwritePdef _ _ => true
  | .regwriteWave _ _ => true
  | .regwriteDc _ _ => true
  | .regwriteMisc _ _ => true
  | .selectch _ => true
  | .writepdef _ _ _ _ _ _ => true
  | .findslot => true
  | .writewave _ _ _ => true
  | .readwave _ _ => true
  | .clearpdef => true
  | .clearwave => true
  | .readerrs => true

end Sys2Proof
end

