-- ==== Sys2Proof/Machine/Link.lean ====
section
/-! DEFINITION. The Link's byte strings: decimal numerals (R63), frames and their legality (R60 to R68,
R75), the splitting of a byte stream into frames (R75), and response lines (R64, R65). -/

namespace Sys2Proof.Machine

open Sys2Proof

/-! ### Numerals (R63) -/

/-- The ASCII byte of a decimal digit. -/
def digitByte (d : Nat) : Byte := BitVec.ofNat 8 (0x30 + d)

/-- An ASCII digit is a byte `0x30` to `0x39` (R63). -/
def isDigit (b : Byte) : Bool := decide (0x30 ≤ b.toNat) && decide (b.toNat ≤ 0x39)

/-- The decimal digits of `n`, most significant first; `fuel` exceeds the number of digits. -/
def decDigits : (fuel n : Nat) → List Byte
  | 0, _ => []
  | fuel + 1, n => if n < 10 then [digitByte n] else decDigits fuel (n / 10) ++ [digitByte (n % 10)]

/-- `dec(n)`: the shortest base-10 numeral of `n` (R63). -/
def dec (n : Nat) : List Byte := decDigits (n + 1) n

/-- The value of a string of ASCII digits. -/
def numVal (ds : List Byte) : Nat := ds.foldl (fun acc d => acc * 10 + (d.toNat - 0x30)) 0

/-- A numeral is canonical when it is `dec` of its value; the empty string is not (R75). -/
def canonical (ds : List Byte) : Bool := decide (ds = dec (numVal ds))

/-! ### Frames (R60 to R68) -/

/-- The command a byte stands for, if any (R66). -/
def commandOf (P : Profile) (b : Byte) : Option Cmd :=
  Cmd.all.find? fun c => decide (P.cmd.byteOf c = b)

/-- The commands whose frame is the command byte alone (R66, column "operand before the byte"). -/
def takesOperand : Cmd → Bool
  | .version => false
  | .regdump => false
  | .reset   => false
  | .errq    => false
  | .chsel   => true
  | .chen    => true
  | .pdefRd  => true
  | .pdefWr  => true
  | .waveRd  => true
  | .waveWr  => true
  | .dcWr    => true
  | .miscRd  => true
  | .miscWr  => true
  | .dataset => true

/-- A write command's operand: an address under `legacy`, a 48-bit word under `unified` (R61, R75). -/
def writeOperandInRange (P : Profile) (n : Nat) : Bool :=
  match P.protoRev with
  | .legacy  => decide (n < 2 ^ 16)
  | .unified => decide (n < 2 ^ 48)

/-- The operand's range in a frame of the command (R75); `CMD_DATASET` is illegal under `unified` (R61). -/
def operandInRange (P : Profile) (c : Cmd) (n : Nat) : Bool :=
  match c with
  | .version => true
  | .regdump => true
  | .reset   => true
  | .errq    => true
  | .chsel   => decide (n < P.cMaxChannels ∨ n = P.chAll)
  | .chen    => decide (n < 2 ^ 32)
  | .pdefRd  => decide (n < 2 ^ 16)
  | .waveRd  => decide (n < 2 ^ 16)
  | .miscRd  => decide (n < 2 ^ 16)
  | .pdefWr  => writeOperandInRange P n
  | .waveWr  => writeOperandInRange P n
  | .dcWr    => writeOperandInRange P n
  | .miscWr  => writeOperandInRange P n
  | .dataset => decide (P.protoRev = .legacy) && decide (n < 2 ^ 32)

/-- The digits are what a frame of the command needs before its byte: none where it takes no operand,
a canonical numeral within the operand's range where it takes one (R75). -/
def digitsFit (P : Profile) (c : Cmd) (digits : List Byte) : Bool :=
  if takesOperand c then canonical digits && operandInRange P c (numVal digits)
  else digits.isEmpty

/-- A frame, digits and then one byte, is legal when the byte is a command byte and the digits fit it (R75). -/
def frameLegal (P : Profile) (digits : List Byte) (last : Byte) : Bool :=
  match commandOf P last with
  | none   => false
  | some c => digitsFit P c digits

/-- The frame of a command without operand: `[CMD]` (R68). -/
def frame0 (P : Profile) (c : Cmd) : Frame := [P.cmd.byteOf c]

/-- The frame of a command with operand `n`: `dec(n) ++ [CMD]` (R60, R61, R62, R68). -/
def frame1 (P : Profile) (c : Cmd) (n : Nat) : Frame := dec n ++ [P.cmd.byteOf c]

/-- `word48 = ((address & 0xFFFF) << 32) | (value & 0xFFFFFFFF)` (R59). -/
def packWord48 (address value : Nat) : Word48 :=
  BitVec.ofNat 48 (((address % 2 ^ 16) <<< 32) ||| (value % 2 ^ 32))

/-- The address field of the unified word, bits 47..32 (R59). -/
def word48Address (w : Word48) : Addr := w.extractLsb' 32 16

/-- The value field of the unified word, bits 31..0 (R59). -/
def word48Value (w : Word48) : Word := w.extractLsb' 0 32

/-- The device's segmentation of a byte stream: each piece is a maximal run of digits and one further
byte; digits that the stream ends with are the incomplete tail (R75). -/
def splitFrames : (digits stream : List Byte) → List (List Byte × Byte) × List Byte
  | digits, [] => ([], digits)
  | digits, b :: bs =>
    if isDigit b then splitFrames (digits ++ [b]) bs
    else
      let (frames, tail) := splitFrames [] bs
      ((digits, b) :: frames, tail)

/-! ### Response lines (R62, R64, R65) -/

/-- The ASCII newline (R64). -/
def newline : Byte := 0x0A#8

/-- The ASCII carriage return (R64). -/
def carriageReturn : Byte := 0x0D#8

/-- The ASCII comma (R62, R64). -/
def comma : Byte := 0x2C#8

/-- The numerals of a data line, separated by commas (R62). -/
def commaSeparated : List Nat → List Byte
  | [] => []
  | [v] => dec v
  | v :: w :: vs => dec v ++ comma :: commaSeparated (w :: vs)

/-- The data line of the values: one numeral, or the comma-separated form, and a newline (R62, R64). -/
def dataLine (vs : List Nat) : Line := commaSeparated vs ++ [newline]

/-- The first response line of the bytes received, and the bytes after it: "the bytes up to and including
the first `0x0A`" (R64). -/
def takeLine : List Byte → Option (Line × List Byte)
  | [] => none
  | b :: bs =>
    if b = newline then some ([b], bs)
    else
      match takeLine bs with
      | none => none
      | some (line, rest) => some (b :: line, rest)

/-- A line without its terminator: `0x0A`, or `0x0D 0x0A` (R64). -/
def stripTerminator : Line → List Byte
  | [] => []
  | b :: bs =>
    if b = newline then []
    else if b = carriageReturn ∧ bs = [newline] then []
    else b :: stripTerminator bs

/-- The pieces of a byte string between commas. -/
def splitCommas : (piece bytes : List Byte) → List (List Byte)
  | piece, [] => [piece]
  | piece, b :: bs => if b = comma then piece :: splitCommas [] bs else splitCommas (piece ++ [b]) bs

/-- The values of a data line, if it is one: canonical numerals separated by commas (R62, R64). -/
def parseDataLine (line : Line) : Option (List Nat) :=
  let pieces := splitCommas [] (stripTerminator line)
  if pieces.all fun p => p.all isDigit && canonical p then some (pieces.map numVal) else none

/-- The error-marked lines among those the device emitted (R65). -/
def errorLines (lines : List Line) : List Line := lines.filter Config.isErrorLine

/-- The lines left when the error-marked ones are removed (R65). -/
def plainLines (lines : List Line) : List Line := lines.filter fun l => !Config.isErrorLine l

end Sys2Proof.Machine
end

