-- ==== Sys2Proof/WellFormed.lean ====
section
/-! DEFINITION. Which instructions are well formed under a profile: those that some request encodes. -/

namespace Sys2Proof

open Machine

/-- An `opsel` without a function operation: `0x00` and `0x0E` to `0xFF` (R70, R74). -/
def opselIllegal (opsel : Byte) : Bool := decide (opsel.toNat = 0 ∨ 0x0E ≤ opsel.toNat)

/-- Well-formedness of an operation under a profile: the operand ranges the operand types do not hold
already, the revision that has the command (R61), and, for the two illegal rows, that they are illegal
(R74, R75). The composite sequences and the function operations check their operands when they run. -/
def Instr.wf (P : Profile) : Instr → Bool
  | .evalpoly _ _ _ => true
  | .pshape _ _ _ _ _ _ _ => true
  | .synth _ _ => true
  | .v2dac _ _ _ => true
  | .packpair _ _ => true
  | .unpackpair _ => true
  | .packtable _ => true
  | .mkwaveid _ _ => true
  | .unwaveid _ => true
  | .encpdef _ _ _ _ _ _ => true
  | .decpdef _ _ _ _ => true
  | .encw _ _ _ => true
  | .deccherr _ => true
  | .illegalFn opsel => opselIllegal opsel
  | .version => true
  | .regdump => true
  | .reset => true
  | .chsel c => operandInRange P .chsel c
  | .chen _ => true
  | .readPdef _ => true
  | .commitPdef _ => decide (P.protoRev = .legacy)
  | .uwritePdef _ => decide (P.protoRev = .unified)
  | .readWave _ => true
  | .commitWave _ => decide (P.protoRev = .legacy)
  | .uwriteWave _ => decide (P.protoRev = .unified)
  | .commitDc _ => decide (P.protoRev = .legacy)
  | .uwriteDc _ => decide (P.protoRev = .unified)
  | .readMisc _ => true
  | .commitMisc _ => decide (P.protoRev = .legacy)
  | .uwriteMisc _ => decide (P.protoRev = .unified)
  | .errq => true
  | .stage _ => decide (P.protoRev = .legacy)
  | .illegalFrame digits last => digits.all isDigit && !isDigit last && !frameLegal P digits last
  | .regwritePdef _ _ => true
  | .regwriteWave _ _ => true
  | .regwriteDc _ _ => true
  | .regwriteMisc _ _ => true
  | .selectch _ => true
  | .writepdef _ _ _ _ _ _ => true
  | .findslot => true
  | .writewave _ _ _ => true
  | .readwave _ _ => true
  | .clearpdef => true
  | .clearwave => true
  | .readerrs => true

end Sys2Proof
end

