-- ==== Sys2Proof/Decode.lean ====
section
/-! DEFINITION. The decoder, total on every request (R70, R74, R75), the encoder that inverts it, and
`decodeTableWord`, the host's question for one row of the opcode table. -/

namespace Sys2Proof

open Machine

/-! ### Function requests (R70) -/

/-- A function request with an assigned `opsel` has the operands of that operation's types; every
unassigned `opsel` is the illegal operation, whatever its operands (R70, R74). -/
def decodeFn (opsel : Byte) (operands : List Value) : Except DecodeError Instr :=
  match opsel.toNat, operands with
  | 0x01, [.nat degree, .rat x, .rats cs] => .ok (.evalpoly degree x cs)
  | 0x02, [.int now, .int start, .int rise, .rat tf, .int hold, .rat gain, .rats cs] =>
    .ok (.pshape now start rise tf hold gain cs)
  | 0x03, [.nat waveLength, .rats cs] => .ok (.synth waveLength cs)
  | 0x04, [.rat voltage, .rat reference, .mode m] => .ok (.v2dac voltage reference m)
  | 0x05, [.nat first, .nat second] => .ok (.packpair first second)
  | 0x06, [.word w] => .ok (.unpackpair w)
  | 0x07, [.nats samples] => .ok (.packtable samples)
  | 0x08, [.nat length, .nat start] => .ok (.mkwaveid length start)
  | 0x09, [.word w] => .ok (.unwaveid w)
  | 0x0A, [.nat entry, .nat start, .wave w, .rat gain, .rat tf, .nat sustain] =>
    .ok (.encpdef entry start w gain tf sustain)
  | 0x0B, [.word r0, .word r1, .word r2, .word r3] => .ok (.decpdef r0 r1 r2 r3)
  | 0x0C, [.nat address, .nat value, .byte b] => .ok (.encw address value b)
  | 0x0D, [.mapping m] => .ok (.deccherr m)
  | _, _ => if opselIllegal opsel then .ok (.illegalFn opsel) else .error (.operandTypes opsel)

/-! ### Link frames (R75) -/

/-- The device command of a legal frame: the command and its operand's value (R66, R61). -/
def instrOfCmd (P : Profile) (c : Cmd) (n : Nat) : Instr :=
  match c, P.protoRev with
  | .version, _ => .version
  | .regdump, _ => .regdump
  | .reset,   _ => .reset
  | .errq,    _ => .errq
  | .chsel,   _ => .chsel n
  | .chen,    _ => .chen (BitVec.ofNat 32 n)
  | .pdefRd,  _ => .readPdef (BitVec.ofNat 16 n)
  | .waveRd,  _ => .readWave (BitVec.ofNat 16 n)
  | .miscRd,  _ => .readMisc (BitVec.ofNat 16 n)
  | .dataset, _ => .stage (BitVec.ofNat 32 n)
  | .pdefWr, .legacy  => .commitPdef (BitVec.ofNat 16 n)
  | .waveWr, .legacy  => .commitWave (BitVec.ofNat 16 n)
  | .dcWr,   .legacy  => .commitDc (BitVec.ofNat 16 n)
  | .miscWr, .legacy  => .commitMisc (BitVec.ofNat 16 n)
  | .pdefWr, .unified => .uwritePdef (BitVec.ofNat 48 n)
  | .waveWr, .unified => .uwriteWave (BitVec.ofNat 48 n)
  | .dcWr,   .unified => .uwriteDc (BitVec.ofNat 48 n)
  | .miscWr, .unified => .uwriteMisc (BitVec.ofNat 48 n)

/-- Digits and the byte after them as an operation: the command where the frame is legal, else the
illegal frame (R75). -/
def decodePiece (P : Profile) (digits : List Byte) (last : Byte) : Instr :=
  match commandOf P last with
  | none   => .illegalFrame digits last
  | some c => if digitsFit P c digits then instrOfCmd P c (numVal digits) else .illegalFrame digits last

/-- The bytes of one frame: a maximal run of digits, then one further byte and nothing after it (R75). -/
def decodeFrame (P : Profile) (bytes : Frame) : Except DecodeError Instr :=
  match splitFrames [] bytes with
  | ([(digits, last)], []) => .ok (decodePiece P digits last)
  | ([], _) => .error .incompleteFrame
  | _ => .error .notOneFrame

/-- What follows the commands of a decoded byte stream: an illegal mark, or the incomplete tail (R75). -/
inductive LinkEnd where
  | illegal (digits : List Byte) (last : Byte)
  | tail (digits : List Byte)
deriving DecidableEq, Repr

/-- The commands of a list of frames, up to the first illegal one (R75). -/
def decodePieces (P : Profile) (tail : List Byte) : List (List Byte × Byte) → List Instr × LinkEnd
  | [] => ([], .tail tail)
  | (digits, last) :: rest =>
    if frameLegal P digits last then
      let (is, e) := decodePieces P tail rest
      (decodePiece P digits last :: is, e)
    else ([], .illegal digits last)

/-- The decoder of a whole byte stream: "every byte string decodes to a list of commands followed by an
illegal mark or a possibly empty incomplete tail" (R75). -/
def decodeLink (P : Profile) (stream : List Byte) : List Instr × LinkEnd :=
  let (pieces, tail) := splitFrames [] stream
  decodePieces P tail pieces

/-- The decoder: the operation a request asks for (R55, R70, R73, R75). -/
def decode (P : Profile) : Request → Except DecodeError Instr
  | .fn opsel operands => decodeFn opsel operands
  | .frame bytes => decodeFrame P bytes
  | .composite i => if i.isComposite then .ok i else .error .notComposite

/-! ### The encoder -/

/-- The request of an operation (R60 to R62, R66, R68, R70, R73). -/
def encode (P : Profile) : Instr → Request
  | .evalpoly degree x cs => .fn 0x01#8 [.nat degree, .rat x, .rats cs]
  | .pshape now start rise tf hold gain cs =>
    .fn 0x02#8 [.int now, .int start, .int rise, .rat tf, .int hold, .rat gain, .rats cs]
  | .synth waveLength cs => .fn 0x03#8 [.nat waveLength, .rats cs]
  | .v2dac voltage reference m => .fn 0x04#8 [.rat voltage, .rat reference, .mode m]
  | .packpair first second => .fn 0x05#8 [.nat first, .nat second]
  | .unpackpair w => .fn 0x06#8 [.word w]
  | .packtable samples => .fn 0x07#8 [.nats samples]
  | .mkwaveid length start => .fn 0x08#8 [.nat length, .nat start]
  | .unwaveid w => .fn 0x09#8 [.word w]
  | .encpdef entry start w gain tf sustain =>
    .fn 0x0A#8 [.nat entry, .nat start, .wave w, .rat gain, .rat tf, .nat sustain]
  | .decpdef r0 r1 r2 r3 => .fn 0x0B#8 [.word r0, .word r1, .word r2, .word r3]
  | .encw address value b => .fn 0x0C#8 [.nat address, .nat value, .byte b]
  | .deccherr m => .fn 0x0D#8 [.mapping m]
  | .illegalFn opsel => .fn opsel []
  | .version => .frame (frame0 P .version)
  | .regdump => .frame (frame0 P .regdump)
  | .reset => .frame (frame0 P .reset)
  | .chsel c => .frame (frame1 P .chsel c)
  | .chen m => .frame (frame1 P .chen m.toNat)
  | .readPdef a => .frame (frame1 P .pdefRd a.toNat)
  | .commitPdef a => .frame (frame1 P .pdefWr a.toNat)
  | .uwritePdef w => .frame (frame1 P .pdefWr w.toNat)
  | .readWave a => .frame (frame1 P .waveRd a.toNat)
  | .commitWave a => .frame (frame1 P .waveWr a.toNat)
  | .uwriteWave w => .frame (frame1 P .waveWr w.toNat)
  | .commitDc a => .frame (frame1 P .dcWr a.toNat)
  | .uwriteDc w => .frame (frame1 P .dcWr w.toNat)
  | .readMisc a => .frame (frame1 P .miscRd a.toNat)
  | .commitMisc a => .frame (frame1 P .miscWr a.toNat)
  | .uwriteMisc w => .frame (frame1 P .miscWr w.toNat)
  | .errq => .frame (frame0 P .errq)
  | .stage v => .frame (frame1 P .dataset v.toNat)
  | .illegalFrame digits last => .frame (digits ++ [last])
  | .regwritePdef a v => .composite (.regwritePdef a v)
  | .regwriteWave a v => .composite (.regwriteWave a v)
  | .regwriteDc a v => .composite (.regwriteDc a v)
  | .regwriteMisc a v => .composite (.regwriteMisc a v)
  | .selectch c => .composite (.selectch c)
  | .writepdef w start gain tf sustain entry => .composite (.writepdef w start gain tf sustain entry)
  | .findslot => .composite .findslot
  | .writewave start samples all => .composite (.writewave start samples all)
  | .readwave start length => .composite (.readwave start length)
  | .clearpdef => .composite .clearpdef
  | .clearwave => .composite .clearwave
  | .readerrs => .composite .readerrs

/-! ### The opcode table's words -/

/-- The operands of a function request whose operands are all zero or empty. -/
def zeroOperands (opsel : Byte) : List Value :=
  match opsel.toNat with
  | 0x01 => [.nat 0, .rat 0, .rats []]
  | 0x02 => [.int 0, .int 0, .int 0, .rat 0, .int 0, .rat 0, .rats []]
  | 0x03 => [.nat 0, .rats []]
  | 0x04 => [.rat 0, .rat 0, .mode .internal]
  | 0x05 => [.nat 0, .nat 0]
  | 0x06 => [.word 0]
  | 0x07 => [.nats []]
  | 0x08 => [.nat 0, .nat 0]
  | 0x09 => [.word 0]
  | 0x0A => [.nat 0, .nat 0, .wave (.id 0), .rat 0, .rat 0, .nat 0]
  | 0x0B => [.word 0, .word 0, .word 0, .word 0]
  | 0x0C => [.nat 0, .nat 0, .byte 0]
  | 0x0D => [.mapping []]
  | _ => []

/-- The request of a table row's 8 bits: the table gives a frame's row its command byte and a function's
row its `opsel`, and leaves the operands to be zero, so a command that takes an operand has the digit
`0` before it (assumption 10). -/
def tableRequest (P : Profile) (w : Nat) : Request :=
  let b : Byte := BitVec.ofNat 8 w
  match commandOf P b with
  | some c => .frame (if takesOperand c then frame1 P c 0 else frame0 P c)
  | none => .fn b (zeroOperands b)

/-- What the decoder reads from a table row's bits under the default profile (assumption 10). -/
def decodeTableWord (_nbits w : Nat) : Option Instr :=
  match decode Profile.p0 (tableRequest Profile.p0 w) with
  | .ok i => some i
  | .error _ => none

end Sys2Proof
end

