-- ==== Sys2Proof/Machine/State.lean ====
section
/-! DEFINITION. The state of the block as plain data (spec R20 to R39), what an operation answers (R14, R24,
R140), the reasons a step stops, and the machine right after reset. -/

namespace Sys2Proof.Machine

open Sys2Proof

/-! ### What an operation answers (R14) -/

/-- A PulseConfig (R17), the result of `DECPDEF` (R104). -/
structure PulseConfig where
  startTime : Nat
  wave      : WaveOperand
  scaleGain : Rat
  scaleAddr : Rat
  sustain   : Nat
deriving DecidableEq, Repr

/-- The encoded fields a range check names (R24, R103). -/
inductive Field where
  | start | waveId | waveLen | waveAddr | gain | timeFactor | sustain | sample
deriving DecidableEq, Repr

/-- The warning flags (R24), each with the value and the bound the source demands (R153). -/
inductive Warning where
  | vClampLo (value bound : Rat)
  | vClampHi (value bound : Rat)
  | sampleOverflow (i value bound : Nat)
  | outOfRange (field : Field) (value bound : Rat)
  | slotWrap
  | deviceError (line : Line)
deriving DecidableEq, Repr

/-- The operands a `BadOperand` names (R145). -/
inductive Operand where
  | degree | riseTicks | timeFactor | holdTicks | referenceVoltage | wave | commandByte | mask
deriving DecidableEq, Repr

/-- The offending value of a `BadOperand` (R153). -/
inductive Amount where
  | num (q : Rat)
  | wave (w : WaveOperand)
deriving DecidableEq, Repr

/-- The violated bound of a `BadOperand` (R153). -/
inductive Bound where
  | atMost (q : Rat)
  | positive
  | nonNegative
  | oneOf (bytes : List Byte)
  | waveForm (m : WaveFieldMode)
deriving DecidableEq, Repr

/-- The fields an `InvalidAddress` names (R144). -/
inductive AddressField where
  | startAddressPlusLength
  | entry
deriving DecidableEq, Repr

/-- The errors of the taxonomy, in the order of their codes (R140). An error is the result of its operation;
it is no fault of the machine (R154). -/
inductive OpError where
  /-- R146: no cause in the model, whose Link is lossless; "listed so that the taxonomy is whole". -/
  | connectionError (command : Cmd) (awaitedLines : Nat)
  /-- R147: raised by the handshake, which is surrounding software (`Machine/Session.lean`). -/
  | versionMismatch (lines : List Line)
  /-- R147: raised by the handshake. -/
  | noDevice
  /-- R141. -/
  | invalidChannel (value bound : Int)
  /-- R144. -/
  | invalidAddress (field : AddressField) (value bound : Int)
  /-- R142: `("startAddress", value, "even")`. -/
  | alignmentError (value : Nat)
  /-- R143, with `STRICT = true`. -/
  | outOfRange (field : Field) (value bound : Rat)
  /-- R148: "never an error in the sense of rule R154"; the warning `Warning.deviceError` reports it. -/
  | deviceError (line : Line)
  /-- R145. -/
  | badOperand (operand : Operand) (value : Amount) (bound : Bound)
  /-- R149. -/
  | illegalOperation (opsel : Byte)
deriving DecidableEq, Repr

/-- The result fields of an operation's response (R22). -/
inductive Result where
  /-- A write, a selection or a reset: no data response (R115 d). -/
  | done
  | rational (q : Rat)
  | natural (n : Nat)
  | naturals (ns : List Nat)
  | word (w : Word)
  | words (ws : List Word)
  | pair (a b : Nat)
  | writes (ws : List (Nat × Word))
  | pulse (c : PulseConfig)
  /-- The empty slot sentinel (R18, R104). -/
  | empty
  | frames (fs : List Frame)
  | reports (rs : List (String × Nat))
  | mapping (m : List (String × Word))
  | counted (rs : List (String × Nat)) (count : Nat)
  | slot (entry : Nat)
  | lines (ls : List Line)
deriving DecidableEq, Repr

/-- The response of one operation: the triple `(result, warnings, error)` of R14, and what crossed the
Link for it: the frames the host sent and the lines it kept, in order. `probes` is the model's own (assumption 29):
where a composite sequence ends with an error in a check that its pseudocode puts after reads of the device (R131, R137),
the frames of those reads stand there, since R154 says of such an operation that it "sent no byte"; of every other
operation it is empty. -/
structure Response where
  result   : Option Result
  warnings : List Warning
  error    : Option OpError
  sent     : List Frame
  lines    : List Line
  probes   : List Frame
deriving DecidableEq, Repr

/-- The response before any operation has run, and the one an operation starts to fill. -/
def Response.blank : Response := ⟨none, [], none, [], [], []⟩

/-! ### The state (R20) -/

/-- A channel selection other than `none` (R34). -/
inductive Selection where
  | one (c : Nat)
  | all
deriving DecidableEq, Repr

/-- Where a register or a sample stands in its space: its channel and its address there. The registers of
the spaces that belong to no channel, DC and MISC, stand at channel 0. -/
abbrev Loc := Nat × Nat

/-- A register space: the elements written since reset, by rising location (`Cells.wf`). An element that
is not listed holds its reset draw (R39). -/
abbrev Cells (α : Type) := List (Loc × α)

/-- The four address spaces (R40). -/
inductive Space where
  | pdef | wave | dc | misc
deriving DecidableEq, Repr

/-- The state: the tuple of R20, the host's program (R23), and the model's own bookkeeping for free
values and for the answer of the last operation. -/
structure State where
  /-- The profile `P` (R6): not state of the block (R37); no step changes it (assumption 1). -/
  profile   : Profile
  /-- The host's program: "a finite list of operations" (R23). -/
  program   : List Request
  /-- "the index of the next operation in the list stands in for a program counter" (R23). -/
  pc        : Nat
  /-- `PDEF[ch][a]`, 32 bits each (R25). -/
  pdef      : Cells Word
  /-- `WRAM[ch][a]`, `SAMPLE_BITS` bits each (R32). -/
  wram      : Cells Nat
  /-- `DCREG[a]`, 32 bits each (R36). -/
  dcreg     : Cells Word
  /-- `MISC[a]`, 32 bits each (R36). -/
  misc      : Cells Word
  /-- `STAGED`, an optional 32-bit value (R33). -/
  staged    : Option Word
  /-- `CHSEL` (R34). -/
  chsel     : Option Selection
  /-- The model's own: the draw that the elements not written since reset hold (R39, assumption 5). -/
  epoch     : Nat
  /-- The model's own: the number of the next draw (R13, assumption 4). -/
  draws     : Nat
  /-- The host's cached selection: "host state, not block state" (R34, R138, assumption 11). -/
  hostCache : Option Selection
  /-- The response of the last operation (R14, R22); no operation reads it. -/
  response  : Response
deriving DecidableEq, Repr

/-! ### Why a step stops -/

/-- The faults. -/
inductive Fault where
  /-- Raised by `step` when the program has no further operation: "the run ends when the index equals the
  length of the list" (R23, R175). Safe: nothing is claimed of a machine whose run has ended. -/
  | endOfRun
deriving DecidableEq, Repr

/-- The refusals: the runs that contain them are outside every claim (R19, R49). All are safe. -/
inductive Refusal where
  /-- Raised by `exec` for an instruction without a meaning yet: none is left. Safe. -/
  | notModelled (mnemonic : String)
  /-- Raised by a channel-scoped command while `CHSEL = none` (R115). Safe: refuses more than an
  instrument may. -/
  | noChannelSelected
  /-- Raised by a channel-scoped read while `CHSEL = all` (R115 b). Safe. -/
  | readUnderAll
  /-- Raised by a device command whose address is outside the used range of its space (R49). Safe. -/
  | addressOutsideRange (space : Space) (address : Nat)
  /-- Raised by a command that the profile's revision does not have: `STAGE` and `COMMIT.x` under
  `unified`, `UWRITE.x` under `legacy` (R61, assumption 19). Safe. -/
  | illegalInRevision (rev : ProtoRev)
  /-- Raised by an illegal frame (R74, R75), and by a `CHSEL` executed with an operand that makes its frame
  illegal (R124, assumption 19). Safe. -/
  | illegalFrame (digits : List Byte) (last : Byte)
  /-- Raised by `CHEN`: "no operand, no effect and no response" in the source (R125). Safe. -/
  | channelEnableUnspecified
  /-- Raised by `REGDUMP`: "no response format and no effect" in the source (R128). Safe. -/
  | registerDumpUnspecified
  /-- Raised by `step` for a request that is no operation (assumption 9). Safe. -/
  | undecoded (e : DecodeError)
deriving DecidableEq, Repr

/-! ### Reset (R39, R160, R161) -/

/-- The machine at power-on: nothing staged, nothing selected, every register and sample at its reset draw
(draw 0), no program loaded, and the default profile (assumptions 1, 3, 5 and 17). -/
def State.reset : State where
  profile   := .p0
  program   := []
  pc        := 0
  pdef      := []
  wram      := []
  dcreg     := []
  misc      := []
  staged    := none
  chsel     := none
  epoch     := 0
  draws     := 1
  hostCache := none
  response  := .blank

end Sys2Proof.Machine
end

