-- ==== Sys2Proof/Machine/Operands.lean ====
section
/-! DEFINITION. The arithmetic of the operands: exact rational rounding (R12), masks (R11), the assembly of
every encoded field (R71), the sample pair (R58), the WaveID (R57) and the polynomial sum (R80). -/

namespace Sys2Proof.Machine

open Sys2Proof

/-! ### Rational to integer (R12) -/

/-- `trunc(q)`: "the integer part of `q` toward zero" (R12). -/
def truncQ (q : Rat) : Int := if 0 ≤ q then q.floor else q.ceil

/-- `round(q)`: the nearest integer, an exact half by `ROUND_TIE` (R12). -/
def roundQ (tie : RoundTie) (q : Rat) : Int :=
  let f := q.floor
  let frac := q - (f : Rat)
  if frac < 1 / 2 then f
  else if 1 / 2 < frac then f + 1
  else
    match tie with
    | .halfEven => if f % 2 = 0 then f else f + 1
    | .halfAway => if q < 0 then f else f + 1

/-- `a & (2^n - 1)` of an integer, negative ones included: `a mod 2^n` (R11). -/
def maskInt (n : Nat) (a : Int) : Nat := (a % (2 ^ n : Int)).toNat

/-- The bits of a word from `lo`, `width` of them, as an integer: `v[lo+width-1 : lo]` (R11). -/
def field (w : Word) (lo width : Nat) : Nat := (w.toNat >>> lo) % 2 ^ width

/-! ### The polynomial (R80) -/

/-- `Σ_{k=1..degree} c[k-1] · x^k`, exact; the empty sum is 0 (R80). -/
def polySum (degree : Nat) (x : Rat) (coefficients : List Rat) : Rat :=
  ((coefficients.take degree).zipIdx.map fun ck => ck.1 * x ^ (ck.2 + 1)).sum

/-- The sum over `degree + 1`, scaled by `2^(ADDR_BITS-1)` (R80). -/
def polyValue (P : Profile) (degree : Nat) (x : Rat) (coefficients : List Rat) : Rat :=
  polySum degree x coefficients / ((degree : Rat) + 1) * (2 : Rat) ^ (P.addrBits - 1)

/-- The regions of a pulse (R82). -/
inductive PulseRegion where
  | rise | hold | fall | outside
deriving DecidableEq, Repr

/-- `pulseWidth = ceil((riseTicks - 1) / timeFactor)` (R82). -/
def pulseWidth (riseTicks : Int) (timeFactor : Rat) : Int :=
  (((riseTicks : Rat) - 1) / timeFactor).ceil

/-- The region `rel` lies in: each lower bound inclusive, each upper bound exclusive, tested in the
order of R82. -/
def pulseRegion (rel pw hold : Int) : PulseRegion :=
  if 0 ≤ rel ∧ rel < pw then .rise
  else if pw ≤ rel ∧ rel < pw + hold then .hold
  else if pw + hold ≤ rel ∧ rel < 2 * pw + hold - 1 then .fall
  else .outside

/-- The argument `x` of R82 in ticks of the table. -/
def pulseArg (rel riseTicks hold : Int) (timeFactor : Rat) : Rat :=
  let pw := pulseWidth riseTicks timeFactor
  match pulseRegion rel pw hold with
  | .rise    => (rel : Rat) * timeFactor
  | .hold    => (riseTicks : Rat) - 1
  | .fall    => ((2 * pw + hold - rel - 1 : Int) : Rat) * timeFactor
  | .outside => 0

/-! ### Samples and pairs (R58, R93, R94) -/

/-- The sample of a polynomial value: truncated to an integer, negatives clamped to 0 (R90). -/
def sampleOf (v : Rat) : Nat :=
  let t := truncQ v
  if t < 0 then 0 else t.toNat

/-- The samples of a table before the padding: one for each `i` in `0 .. L-1` at `x = i/L` (R90). -/
def tableSamples (P : Profile) (waveLength : Nat) (coefficients : List Rat) : List Nat :=
  (List.range waveLength).map fun (i : Nat) =>
    sampleOf (polyValue P coefficients.length ((i : Rat) / (waveLength : Rat)) coefficients)

/-- "odd-length input padded with trailing zero" (R44, R95). -/
def padEven (samples : List Nat) : List Nat :=
  if samples.length % 2 = 1 then samples ++ [0] else samples

/-- A length rounded up to even (R133). -/
def roundUpEven (n : Nat) : Nat := n + n % 2

/-- `((hi << ADDR_BITS) | lo) & 0xFFFFFFFF`, with `lo` and `hi` by `PAIR_ORDER` (R93). -/
def pairWord (P : Profile) (first second : Nat) : Word :=
  match P.pairOrder with
  | .evenLow  => BitVec.ofNat 32 ((second <<< P.addrBits) ||| first)
  | .evenHigh => BitVec.ofNat 32 ((first <<< P.addrBits) ||| second)

/-- The two `ADDR_BITS`-wide fields of a pair word, in sample order (R94). -/
def unpairWord (P : Profile) (w : Word) : Nat × Nat :=
  let lo := field w 0 P.addrBits
  let hi := field w P.addrBits P.addrBits
  match P.pairOrder with
  | .evenLow  => (lo, hi)
  | .evenHigh => (hi, lo)

/-- The samples two at a time: `(samples[2k], samples[2k+1])`; a last sample without partner is left
out, which `padEven` prevents (R95). -/
def pairsOf : List Nat → List (Nat × Nat)
  | a :: b :: rest => (a, b) :: pairsOf rest
  | [_] => []
  | [] => []

/-- `waveRegAddr(p)`: the register address of pair `p` (R42). -/
def waveRegAddr (P : Profile) (p : Nat) : Nat :=
  match P.waveAddrMode with
  | .pairIndex     => p
  | .sampleAddress => 2 * p

/-- The pair at a WAVE register address, if it is `waveRegAddr(p)` for some `p` below half the capacity
(R42, R118). -/
def pairAt (P : Profile) (address : Nat) : Option Nat :=
  match P.waveAddrMode with
  | .pairIndex => if address < P.waveRamCapacity / 2 then some address else none
  | .sampleAddress =>
    if address % 2 = 0 ∧ address / 2 < P.waveRamCapacity / 2 then some (address / 2) else none

/-! ### The voltage conversion (R92) -/

/-- The effective range: twice the reference, or the reference (R92). -/
def voltageRange (reference : Rat) : RefMode → Rat
  | .internal => 2 * reference
  | .external => reference

/-- `clamp(v, 0, range)` (R92). -/
def clampVoltage (voltage range : Rat) : Rat :=
  if voltage < 0 then 0 else if range < voltage then range else voltage

/-- `floor(v / step)` with `step = range / 2^DAC_BITS_RES`, clamped to `2^DAC_BITS_RES - 1` (R92). -/
def dacCode (P : Profile) (v range : Rat) : Nat :=
  let step := range / (2 : Rat) ^ P.dacBitsRes
  let code := (v / step).floor
  if (2 : Int) ^ P.dacBitsRes - 1 < code then 2 ^ P.dacBitsRes - 1 else code.toNat

/-! ### The fields of a pulse definition (R56, R71, R101, R102) -/

/-- A WaveID: length in bits 31..16, start address in bits 15..0 (R57, R100). -/
def packWaveId (length start : Nat) : Word :=
  BitVec.ofNat 32 (((length % 2 ^ 16) <<< 16) ||| (start % 2 ^ 16))

/-- The length and the start address of a WaveID (R108). -/
def unpackWaveId (w : Word) : Nat × Nat := (field w 16 16, field w 0 16)

/-- The entry-0 start-time substitution (R101). -/
def substStart (P : Profile) (entry startTime : Nat) : Nat :=
  if entry = 0 ∧ startTime < P.pulseStartMin then P.pulseStartMin else startTime

/-- `round(gain · 2^(GAIN_BITS-1))` (R102). -/
def scaleGain (P : Profile) (gain : Rat) : Int :=
  roundQ P.roundTie (gain * (2 : Rat) ^ (P.gainBits - 1))

/-- `round(timeFactor · 2^FRAC_BITS)` (R102). -/
def scaleTime (P : Profile) (timeFactor : Rat) : Int :=
  roundQ P.roundTie (timeFactor * (2 : Rat) ^ P.fracBits)

/-- Whether the `wave` operand has the form `WAVE_FIELD_MODE` asks for (R102). -/
def waveFits : WaveFieldMode → WaveOperand → Bool
  | .waveId, .id _ => true
  | .addrLen, .addrLen _ _ => true
  | .waveId, .addrLen _ _ => false
  | .addrLen, .id _ => false

/-- Register `START`: `startTime' & 0xFFFFFF` (R26, R102). -/
def startWord (startTime' : Nat) : Word := BitVec.ofNat 32 (startTime' % 2 ^ 24)

/-- Register `WAVE`: the WaveID, or `((waveLen & 0xFFF) << 16) | (waveAddr & 0xFFF)` (R27, R102). -/
def waveWord : WaveOperand → Word
  | .id waveId => BitVec.ofNat 32 waveId
  | .addrLen waveAddr waveLen =>
    BitVec.ofNat 32 (((waveLen % 2 ^ 12) <<< 16) ||| (waveAddr % 2 ^ 12))

/-- Register `SCALE`: `((g & 0xFFFF) << 16) | (t & 0xFFFF)` (R28, R102). -/
def scaleWord (g t : Int) : Word := BitVec.ofNat 32 ((maskInt 16 g <<< 16) ||| maskInt 16 t)

/-- Register `SUSTAIN`: `sustain & 0x1FFFF` (R29, R102). -/
def sustainWord (sustain : Nat) : Word := BitVec.ofNat 32 (sustain % 2 ^ 17)

/-- The four (address, value) pairs of an entry, in register order (R25, R102). The start time is substituted and then
masked, as in the pseudocode of R102, so that with `STRICT = false` slot 0 can be given a value below
`PULSE_START_MIN` by a start time of `2^24` or more (assumption 26, where R26 says otherwise). -/
def slotWrites (P : Profile) (entry startTime : Nat) (wave : WaveOperand) (gain timeFactor : Rat)
    (sustain : Nat) : List (Nat × Word) :=
  [(4 * entry + 0, startWord (substStart P entry startTime)),
   (4 * entry + 1, waveWord wave),
   (4 * entry + 2, scaleWord (scaleGain P gain) (scaleTime P timeFactor)),
   (4 * entry + 3, sustainWord sustain)]

/-- The `wave` field of register 1, by `WAVE_FIELD_MODE` (R27, R104). -/
def decodeWave (mode : WaveFieldMode) (r1 : Word) : WaveOperand :=
  match mode with
  | .waveId  => .id r1.toNat
  | .addrLen => .addrLen (field r1 0 12) (field r1 16 12)

/-- The fields of a quadruple (R104). -/
def decodeFields (P : Profile) (r0 r1 r2 r3 : Word) : PulseConfig where
  startTime := field r0 0 24
  wave      := decodeWave P.waveFieldMode r1
  scaleGain := (field r2 16 16 : Rat) / (2 : Rat) ^ (P.gainBits - 1)
  scaleAddr := (field r2 0 16 : Rat) / (2 : Rat) ^ P.fracBits
  sustain   := field r3 0 17

/-- "empty" = all four constituent registers zero: the raw test of `DECPDEF` (R31, R104). -/
def rawEmpty (r0 r1 r2 r3 : Word) : Bool := decide (r0 = 0 ∧ r1 = 0 ∧ r2 = 0 ∧ r3 = 0)

/-- The decoded definition, or `none` for the empty slot sentinel (R104). -/
def decodeQuad (P : Profile) (r0 r1 r2 r3 : Word) : Option PulseConfig :=
  if rawEmpty r0 r1 r2 r3 then none else some (decodeFields P r0 r1 r2 r3)

/-- The `wave` part of `fieldsum` (R132). -/
def waveSum : WaveOperand → Rat
  | .id waveId => (waveId : Rat)
  | .addrLen waveAddr waveLen => (waveAddr : Rat) + (waveLen : Rat)

/-- `fieldsum(d)` (R132). -/
def fieldSum (c : PulseConfig) : Rat :=
  (c.startTime : Rat) + waveSum c.wave + c.scaleGain + c.scaleAddr + (c.sustain : Rat)

/-- The emptiness test of the allocation scan: the sentinel, or decoded fields that sum to 0 (R132). -/
def scanEmpty (P : Profile) (r0 r1 r2 r3 : Word) : Bool :=
  match decodeQuad P r0 r1 r2 r3 with
  | none   => true
  | some c => decide (fieldSum c = 0)

/-- The bits of `PDEF` register `a` that belong to a field (R26 to R29). -/
def fieldMask (mode : WaveFieldMode) (a : Nat) : Word :=
  match a % 4, mode with
  | 0, _ => 0x00FFFFFF#32
  | 1, .waveId  => 0xFFFFFFFF#32
  | 1, .addrLen => 0x0FFF0FFF#32
  | 2, _ => 0xFFFFFFFF#32
  | _, _ => 0x0001FFFF#32

/-- What a `PDEF` register keeps of a written value (R30). -/
def keptBits (P : Profile) (a : Nat) (v : Word) : Word :=
  if P.pdefKeepUnused then v else v &&& fieldMask P.waveFieldMode a

/-! ### Channel errors (R69, R107) -/

/-- The channels of a mask: bit `j`, ascending, is channel `C_MAX_CHANNELS - 1 - j` (R107). -/
def maskChannels (n : Nat) (mask : Word) : List Nat :=
  ((List.range n).filter fun j => mask.toNat.testBit j).map fun j => n - 1 - j

end Sys2Proof.Machine
end

