-- ==== Sys2Proof/Machine/Flags.lean ====
section
/-! DEFINITION. The warning flags and the errors: the set of flags a response carries (R14, R24), the range
checks and what `STRICT` makes of them (R103, R143), and the error codes (R140). -/

namespace Sys2Proof.Machine

open Sys2Proof

/-- The flags as a set: each once, in the order first raised ("a finite set of warning flags", R14). -/
def flagSet : List Warning → List Warning
  | [] => []
  | w :: ws => w :: (flagSet ws).filter fun v => decide (v ≠ w)

/-- A failed range check: the field, its value and the violated bound (R103, R153). -/
structure Violation where
  field : Field
  value : Rat
  bound : Rat
deriving DecidableEq, Repr

/-- One row of a table of range checks: the violation where the check fails. -/
def check (ok : Bool) (field : Field) (value bound : Rat) : List Violation :=
  if ok then [] else [⟨field, value, bound⟩]

/-- A natural number against the largest value of its field (R103). -/
def checkMax (field : Field) (value bound : Nat) : List Violation :=
  check (decide (value ≤ bound)) field value bound

/-- What the profile makes of failed checks, in order: with `STRICT` the first is the error, without it
each is a flag and the operation goes on (R103, R143). -/
def strictness (strict : Bool) (vs : List Violation) : Except OpError (List Warning) :=
  match strict, vs with
  | true, v :: _ => .error (.outOfRange v.field v.value v.bound)
  | true, [] => .ok []
  | false, vs => .ok (vs.map fun v => .outOfRange v.field v.value v.bound)

/-- The check of a sample against `SMAX` (R93). -/
def sampleCheck (P : Profile) (s : Nat) : List Violation := checkMax .sample s P.smax

/-- The checks of a sample pair, first sample first (R93). -/
def pairChecks (P : Profile) (first second : Nat) : List Violation :=
  sampleCheck P first ++ sampleCheck P second

/-- The checks of a WaveID's two halves (R100). -/
def waveIdChecks (length start : Nat) : List Violation :=
  checkMax .waveLen length 0xFFFF ++ checkMax .waveAddr start 0xFFFF

/-- The checks of the `wave` operand, by its form (R103). -/
def waveChecks : WaveOperand → List Violation
  | .id waveId => checkMax .waveId waveId 0xFFFFFFFF
  | .addrLen waveAddr waveLen =>
    checkMax .waveLen waveLen 0xFFF ++ checkMax .waveAddr waveAddr 0xFFF

/-- A scaled value fits its 16-bit field: `0 <= v <= 0xFFFF` (R103). -/
def fits16 (v : Int) : Bool := decide (0 ≤ v ∧ v ≤ 0xFFFF)

/-- The range checks of `ENCPDEF`, in the order of the table of R103; `START` is checked after the
substitution. -/
def pdefChecks (P : Profile) (entry startTime : Nat) (wave : WaveOperand) (gain timeFactor : Rat)
    (sustain : Nat) : List Violation :=
  checkMax .start (substStart P entry startTime) 0xFFFFFF
    ++ waveChecks wave
    ++ check (fits16 (scaleGain P gain)) .gain gain (0xFFFF / (2 : Rat) ^ (P.gainBits - 1))
    ++ check (fits16 (scaleTime P timeFactor)) .timeFactor timeFactor (0xFFFF / (2 : Rat) ^ P.fracBits)
    ++ checkMax .sustain sustain 0x1FFFF

/-- The `SAMPLE_OVERFLOW` flags of a table, one for each sample above `SMAX` (R90). -/
def overflowFlags (P : Profile) (samples : List Nat) : List Warning :=
  (samples.zipIdx.filter fun si => decide (P.smax < si.1)).map fun si =>
    .sampleOverflow si.2 si.1 P.smax

/-- The flags of the voltage clamps; at most one applies (R92). -/
def clampFlags (voltage range : Rat) : List Warning :=
  if voltage < 0 then [.vClampLo voltage 0]
  else if range < voltage then [.vClampHi voltage range] else []

/-- The code of an error, a label of the spec only (R140). -/
def OpError.code : OpError → Nat
  | .connectionError _ _    => 1
  | .versionMismatch _      => 2
  | .noDevice               => 3
  | .invalidChannel _ _     => 4
  | .invalidAddress _ _ _   => 5
  | .alignmentError _       => 6
  | .outOfRange _ _ _       => 7
  | .deviceError _          => 8
  | .badOperand _ _ _       => 9
  | .illegalOperation _     => 10

end Sys2Proof.Machine
end

