-- ==== Sys2Proof/Machine/Ops.lean ====
section
/-! DEFINITION. The named operations over the state: the register spaces (R13 `MemRead`, `MemWrite`), the
channels a command reaches (R115), one exchange on the Link (R115 c, R165), and how an operation ends: with a
result, or with an error, which is this block's whole exception mechanism (R154). -/

namespace Sys2Proof.Machine

open Sys2Proof

/-! ### Register spaces -/

/-- Locations in order: by channel, then by address. -/
def locLt (k l : Loc) : Bool := decide (k.1 < l.1 ∨ (k.1 = l.1 ∧ k.2 < l.2))

/-- The element at a location, if it has been written since reset. -/
def Cells.read {α : Type} : Cells α → Loc → Option α
  | [], _ => none
  | (k, v) :: rest, l => if k = l then some v else Cells.read rest l

/-- The space with the element at a location set. -/
def Cells.write {α : Type} : Cells α → Loc → α → Cells α
  | [], l, v => [(l, v)]
  | (k, w) :: rest, l, v =>
    if k = l then (l, v) :: rest
    else if locLt l k then (l, v) :: (k, w) :: rest
    else (k, w) :: Cells.write rest l v

/-- The canonical form: locations strictly rising. What an unlisted location reads as is no value at this
level, so no entry repeats it; equal spaces are equal lists. -/
def Cells.wf {α : Type} : Cells α → Bool
  | [] => true
  | [_] => true
  | (k, _) :: (l, v) :: rest => locLt k l && Cells.wf ((l, v) :: rest)

/-- The canonical form of all four spaces. -/
def State.memoryWf (s : State) : Bool :=
  Cells.wf s.pdef && Cells.wf s.wram && Cells.wf s.dcreg && Cells.wf s.misc

/-- `PDEF[ch][a]`: the value written last, or the reset draw (R39, R50 b). -/
def State.pdefAt (s : State) (ch a : Nat) : Word :=
  match s.pdef.read (ch, a) with
  | some v => v
  | none => Config.resetPdef s.epoch ch a

/-- `WRAM[ch][a]`: the sample written last, or the reset draw, `SAMPLE_BITS` bits (R32, R39). -/
def State.sampleAt (s : State) (ch a : Nat) : Nat :=
  match s.wram.read (ch, a) with
  | some v => v
  | none => Config.resetSample s.epoch ch a % 2 ^ s.profile.addrBits

/-- `DCREG[a]` (R36, R39). -/
def State.dcAt (s : State) (a : Nat) : Word :=
  match s.dcreg.read (0, a) with
  | some v => v
  | none => Config.resetDc s.epoch a

/-- `MISC[a]` (R36, R39). -/
def State.miscAt (s : State) (a : Nat) : Word :=
  match s.misc.read (0, a) with
  | some v => v
  | none => Config.resetMisc s.epoch a

/-- `CHERR[kind]` for the kind at a position of `ERR_KINDS`: no stored value, the mask the sequencer shows
at this draw (R35). -/
def State.cherrAt (s : State) (position : Nat) : Word := Config.cherr s.draws position

/-- The value written to one address of every channel of a list. -/
def writeEach {α : Type} (channels : List Nat) (a : Nat) (v : α) (cells : Cells α) : Cells α :=
  channels.foldl (fun m ch => m.write (ch, a) v) cells

/-- The two samples of a pair written to every channel of a list (R118). -/
def writePairs (channels : List Nat) (p : Nat) (pair : Nat × Nat) (cells : Cells Nat) : Cells Nat :=
  channels.foldl (fun m ch => (m.write (ch, 2 * p) pair.1).write (ch, 2 * p + 1) pair.2) cells

/-- `for ch in targets: PDEF[ch][a] <- v`, with the bits the register keeps (R30, R117). -/
def storePdef (channels : List Nat) (a : Nat) (v : Word) (s : State) : State :=
  { s with pdef := writeEach channels a (keptBits s.profile a v) s.pdef }

/-- `for ch in targets: WRAM[ch][2p] <- first; WRAM[ch][2p+1] <- second` (R118). -/
def storePair (channels : List Nat) (p : Nat) (pair : Nat × Nat) (s : State) : State :=
  { s with wram := writePairs channels p pair s.wram }

/-- `DCREG[a] <- v` (R119). -/
def storeDc (a : Nat) (v : Word) (s : State) : State := { s with dcreg := s.dcreg.write (0, a) v }

/-- `MISC[a] <- v` (R120). -/
def storeMisc (a : Nat) (v : Word) (s : State) : State := { s with misc := s.misc.write (0, a) v }

/-! ### Channels (R115) -/

/-- `targets`: the channels a channel-scoped write reaches; with nothing selected the command is refused
(R115 a). -/
def State.targets (s : State) : Except Refusal (List Nat) :=
  match s.chsel with
  | none => .error .noChannelSelected
  | some (.one c) => .ok [c]
  | some .all => .ok (List.range s.profile.cMaxChannels)

/-- `source`: the channel a channel-scoped read returns; refused under `all` and `none` (R115 b). -/
def State.source (s : State) : Except Refusal Nat :=
  match s.chsel with
  | none => .error .noChannelSelected
  | some .all => .error .readUnderAll
  | some (.one c) => .ok c

/-! ### The Link -/

/-- The error-marked lines the device emits after the command at hand (R115 c). -/
def State.deviceErrors (s : State) : List Line := errorLines (Config.emitted s.draws)

/-- The other lines the device emits after the command at hand, where a rule leaves them free (R126, R127). -/
def State.freeLines (s : State) : List Line := plainLines (Config.emitted s.draws)

/-- One device command on the Link: its frame is sent, its data lines are read, every error-marked line is
reported, and the response is drained before the next command (R65, R115 c, R148, R165). That the data lines are kept
without a test of `isErrorLine` is the model's choice (assumption 27). -/
def exchange (frame : Frame) (data : List Line) (s : State) : State :=
  { s with
    draws := s.draws + 1
    response := { s.response with
      sent := s.response.sent ++ [frame]
      lines := s.response.lines ++ data
      warnings := s.response.warnings ++ s.deviceErrors.map .deviceError } }

/-- Where a check that comes after reads of the device fails: `s` is the state the operation started in, `t` the one
after the reads (R131, R137). The error has "changed no block state and sent no byte" (R154, R143, R166), so `s` is
left; the frames of the reads are kept aside in `probes`, and what is drawn after them is fresh (assumption 29). -/
def State.probedTo (s t : State) : State :=
  { s with draws := t.draws, response := { s.response with probes := t.response.sent } }

/-! ### The ends of an operation (R14, R152, R154) -/

/-- An operation starts with a blank response: "No operand persists from one operation to the next" (R22). -/
def State.start (s : State) : State := { s with response := .blank }

/-- Flags raised on the way (R13 `warn`). -/
def State.warn (ws : List Warning) (s : State) : State :=
  { s with response := { s.response with warnings := s.response.warnings ++ ws } }

/-- The operation completes: its result with every flag raised (R14, R152). -/
def State.succeed (r : Result) (s : State) : State :=
  { s with response := { s.response with
      result := some r, warnings := flagSet s.response.warnings, error := none } }

/-- TAKING AN ERROR (R154): "Nothing is saved, no mode changes, control goes nowhere: the error is the
operation's result". The result is absent (R14) and the flags are dropped (R152). There is no return from it. -/
def State.raise (e : OpError) (s : State) : State :=
  { s with response := { s.response with result := none, warnings := [], error := some e } }

/-- How an operation that was not refused ends: with a result, or with an error. -/
inductive Ending where
  | done (r : Result) (s : State)
  | failed (e : OpError) (s : State)
deriving DecidableEq, Repr

/-- The state an ending leaves. -/
def Ending.close : Ending → State
  | .done r s   => s.succeed r
  | .failed e s => s.raise e

/-- A function operation: it "reads and writes no instrument state" (R18); its value is a result with its
flags, or an error. -/
def runFunction (f : Except OpError (Result × List Warning)) (s : State) :
    Host.Outcome State Fault Refusal :=
  match f with
  | .ok (r, ws) => .next ((s.start.warn ws).succeed r)
  | .error e => .next (s.start.raise e)

/-- A device command or a composite sequence: it runs from a blank response, and a refusal refuses the
run. -/
def runCommand (f : State → Except Refusal Ending) (s : State) : Host.Outcome State Fault Refusal :=
  match f s.start with
  | .ok e => .next e.close
  | .error r => .refused r

end Sys2Proof.Machine
end

