-- ==== Sys2Proof/Machine/Device.lean ====
section
/-! DEFINITION. The device commands (spec 43_register_access.md, sections 1 to 3): `STAGE`, `COMMIT.x`,
`UWRITE.x`, `READ.x`, `CHSEL`, `CHEN`, `RESET`, `VERSION`, `REGDUMP`, `ERRQ`, and the illegal frame.  A
`dev` definition is the command itself, which a composite sequence sends too. -/

namespace Sys2Proof.Machine

open Sys2Proof

/-! ### Writes -/

/-- The write command of a space (R66). -/
def writeCmd : Space → Cmd
  | .pdef => .pdefWr
  | .wave => .waveWr
  | .dc   => .dcWr
  | .misc => .miscWr

/-- `PDEF[ch][address] <- v` for every target channel (R117, R139). -/
def storeAtPdef (address : Nat) (v : Word) (s : State) : Except Refusal State :=
  if 4 * s.profile.nSlots ≤ address then .error (.addressOutsideRange .pdef address)
  else
    match s.targets with
    | .error r => .error r
    | .ok chs => .ok (storePdef chs address v s)

/-- The sample pair at a WAVE register address, for every target channel (R118, R176). -/
def storeAtWave (address : Nat) (v : Word) (s : State) : Except Refusal State :=
  match pairAt s.profile address with
  | none => .error (.addressOutsideRange .wave address)
  | some p =>
    match s.targets with
    | .error r => .error r
    | .ok chs => .ok (storePair chs p (unpairWord s.profile v) s)

/-- A value written at an address of a space; DC and MISC are not channel-scoped (R117 to R120). -/
def storeAt (space : Space) (address : Nat) (v : Word) (s : State) : Except Refusal State :=
  match space with
  | .pdef => storeAtPdef address v s
  | .wave => storeAtWave address v s
  | .dc   => .ok (storeDc address v s)
  | .misc => .ok (storeMisc address v s)

/-- `STAGED <- value`, legal only under `legacy` (R61, R116). -/
def devStage (value : Word) (s : State) : Except Refusal State :=
  match s.profile.protoRev with
  | .unified => .error (.illegalInRevision .unified)
  | .legacy => .ok (exchange (frame1 s.profile .dataset value.toNat) [] { s with staged := some value })

/-- The value a commit writes: what is staged, or garbage (R33, R117). -/
def State.committed (s : State) : Word :=
  match s.staged with
  | some v => v
  | none => Config.garbage s.draws

/-- A commit: the staged value, or garbage, is written and consumed; legal only under `legacy` (R33, R117). -/
def devCommit (space : Space) (address : Addr) (s : State) : Except Refusal State :=
  match s.profile.protoRev with
  | .unified => .error (.illegalInRevision .unified)
  | .legacy =>
    match storeAt space address.toNat s.committed s with
    | .error r => .error r
    | .ok t =>
      .ok (exchange (frame1 s.profile (writeCmd space) address.toNat) [] { t with staged := none })

/-- A unified write: address and value in one word, `STAGED` neither read nor written; legal only under
`unified` (R61, R139). -/
def devUwrite (space : Space) (w : Word48) (s : State) : Except Refusal State :=
  match s.profile.protoRev with
  | .legacy => .error (.illegalInRevision .legacy)
  | .unified =>
    match storeAt space (word48Address w).toNat (word48Value w) s with
    | .error r => .error r
    | .ok t => .ok (exchange (frame1 s.profile (writeCmd space) w.toNat) [] t)

/-- A write has no data response (R115 d). -/
def written (t : Except Refusal State) : Except Refusal Ending :=
  match t with
  | .ok s => .ok (.done .done s)
  | .error r => .error r

/-- STAGE (R116). -/
def execStage (value : Word) (s : State) : Host.Outcome State Fault Refusal :=
  runCommand (fun s => written (devStage value s)) s

/-- COMMIT.PDEF (R117). -/
def execCommitPdef (address : Addr) (s : State) : Host.Outcome State Fault Refusal :=
  runCommand (fun s => written (devCommit .pdef address s)) s

/-- COMMIT.WAVE (R118). -/
def execCommitWave (address : Addr) (s : State) : Host.Outcome State Fault Refusal :=
  runCommand (fun s => written (devCommit .wave address s)) s

/-- COMMIT.DC (R119). -/
def execCommitDc (address : Addr) (s : State) : Host.Outcome State Fault Refusal :=
  runCommand (fun s => written (devCommit .dc address s)) s

/-- COMMIT.MISC (R120). -/
def execCommitMisc (address : Addr) (s : State) : Host.Outcome State Fault Refusal :=
  runCommand (fun s => written (devCommit .misc address s)) s

/-- UWRITE.PDEF (R139). -/
def execUwritePdef (word48 : Word48) (s : State) : Host.Outcome State Fault Refusal :=
  runCommand (fun s => written (devUwrite .pdef word48 s)) s

/-- UWRITE.WAVE (R176). -/
def execUwriteWave (word48 : Word48) (s : State) : Host.Outcome State Fault Refusal :=
  runCommand (fun s => written (devUwrite .wave word48 s)) s

/-- UWRITE.DC (R177). -/
def execUwriteDc (word48 : Word48) (s : State) : Host.Outcome State Fault Refusal :=
  runCommand (fun s => written (devUwrite .dc word48 s)) s

/-- UWRITE.MISC (R178). -/
def execUwriteMisc (word48 : Word48) (s : State) : Host.Outcome State Fault Refusal :=
  runCommand (fun s => written (devUwrite .misc word48 s)) s

/-! ### Reads -/

/-- `PDEF[source][address]` (R121). -/
def loadPdef (address : Nat) (s : State) : Except Refusal Word :=
  if 4 * s.profile.nSlots ≤ address then .error (.addressOutsideRange .pdef address)
  else
    match s.source with
    | .error r => .error r
    | .ok ch => .ok (s.pdefAt ch address)

/-- `PACKPAIR(WRAM[source][2p], WRAM[source][2p+1])` (R122). -/
def loadWave (address : Nat) (s : State) : Except Refusal Word :=
  match pairAt s.profile address with
  | none => .error (.addressOutsideRange .wave address)
  | some p =>
    match s.source with
    | .error r => .error r
    | .ok ch => .ok (pairWord s.profile (s.sampleAt ch (2 * p)) (s.sampleAt ch (2 * p + 1)))

/-- A read: its frame, one data line with the value, and no other change (R47, R62). The read's own data line is
never an error line: the model's choice (assumption 27). -/
def answered (c : Cmd) (address : Addr) (s : State) (v : Except Refusal Word) :
    Except Refusal (Word × State) :=
  match v with
  | .error r => .error r
  | .ok w => .ok (w, exchange (frame1 s.profile c address.toNat) [dataLine [w.toNat]] s)

/-- The read of the pulse-definition space (R121). -/
def devReadPdef (address : Addr) (s : State) : Except Refusal (Word × State) :=
  answered .pdefRd address s (loadPdef address.toNat s)

/-- The read of the waveform RAM (R122). -/
def devReadWave (address : Addr) (s : State) : Except Refusal (Word × State) :=
  answered .waveRd address s (loadWave address.toNat s)

/-- The read of the miscellaneous space, not channel-scoped (R123). -/
def devReadMisc (address : Addr) (s : State) : Except Refusal (Word × State) :=
  answered .miscRd address s (.ok (s.miscAt address.toNat))

/-- A read's result is the register's value (R62). -/
def readResult (v : Except Refusal (Word × State)) : Except Refusal Ending :=
  match v with
  | .ok (w, s) => .ok (.done (.word w) s)
  | .error r => .error r

/-- READ.PDEF (R121). -/
def execReadPdef (address : Addr) (s : State) : Host.Outcome State Fault Refusal :=
  runCommand (fun s => readResult (devReadPdef address s)) s

/-- READ.WAVE (R122). -/
def execReadWave (address : Addr) (s : State) : Host.Outcome State Fault Refusal :=
  runCommand (fun s => readResult (devReadWave address s)) s

/-- READ.MISC (R123). -/
def execReadMisc (address : Addr) (s : State) : Host.Outcome State Fault Refusal :=
  runCommand (fun s => readResult (devReadMisc address s)) s

/-! ### Selection, reset and queries -/

/-- The selection an operand of `CHSEL` stands for; any other operand is an illegal frame (R75, R124). -/
def selectionOf (P : Profile) (c : Nat) : Option Selection :=
  if c < P.cMaxChannels then some (.one c)
  else if c = P.chAll then some .all
  else none

/-- `CHSEL <- c` or `CHSEL <- all`; `STAGED` is not touched (R124). -/
def devChsel (c : Nat) (s : State) : Except Refusal State :=
  match selectionOf s.profile c with
  | none => .error (.illegalFrame (dec c) s.profile.cmd.chsel)
  | some sel => .ok (exchange (frame1 s.profile .chsel c) [] { s with chsel := some sel })

/-- "the whole state takes its reset value": nothing staged, nothing selected, every element a fresh draw
(R39, R126); the host's program and its cached selection are not the block's (R37, R162). -/
def resetBlock (s : State) : State :=
  { s with
    staged := none
    chsel := none
    pdef := []
    wram := []
    dcreg := []
    misc := []
    epoch := s.draws }

/-- The reset byte; the lines the device sends are read and discarded (R126). -/
def devReset (s : State) : State :=
  exchange (frame0 s.profile .reset) s.freeLines (resetBlock s)

/-- The version query: no state change, lines of any content (R127). -/
def devVersion (s : State) : State :=
  exchange (frame0 s.profile .version) s.freeLines s

/-- `[ (kind, draw(32)) for kind in ERR_KINDS ]` (R129). -/
def State.errorMapping (s : State) : List (String × Word) :=
  s.profile.errKinds.zipIdx.map fun kj => (kj.1, s.cherrAt kj.2)

/-- The channel-error query: its one structured line has no bytes in the spec (R129). -/
def devErrq (s : State) : State :=
  exchange (frame0 s.profile .errq) [] s

/-- CHSEL (R124). -/
def execChsel (c : Nat) (s : State) : Host.Outcome State Fault Refusal :=
  runCommand (fun s => written (devChsel c s)) s

/-- CHEN (R125): "The source lists the command byte and gives no operand, no effect and no response. The model
refuses it." -/
def execChen (_m : Word) (_s : State) : Host.Outcome State Fault Refusal :=
  .refused .channelEnableUnspecified

/-- RESET (R126). -/
def execReset (s : State) : Host.Outcome State Fault Refusal :=
  runCommand (fun s => .ok (.done .done (devReset s))) s

/-- VERSION (R127). -/
def execVersion (s : State) : Host.Outcome State Fault Refusal :=
  runCommand (fun s => .ok (.done (.lines s.freeLines) (devVersion s))) s

/-- REGDUMP (R128): "The source lists the command byte and gives no response format and no effect. The model
refuses it." -/
def execRegdump (_s : State) : Host.Outcome State Fault Refusal :=
  .refused .registerDumpUnspecified

/-- ERRQ (R129). -/
def execErrq (s : State) : Host.Outcome State Fault Refusal :=
  runCommand (fun s => .ok (.done (.mapping s.errorMapping) (devErrq s))) s

/-- ILLEGAL.FRAME (R74, R75): "the model refuses such a frame". -/
def execIllegalFrame (digits : List Byte) (last : Byte) (_s : State) :
    Host.Outcome State Fault Refusal :=
  .refused (.illegalFrame digits last)

end Sys2Proof.Machine
end

