-- ==== Sys2Proof/Machine/PulseCodec.lean ====
section
/-! DEFINITION. The codec operations `MKWAVEID`, `UNWAVEID`, `ENCPDEF`, `DECPDEF`, `ENCW` and `DECCHERR`
(spec 42_pulsecfg_codec.md), and the illegal function request (R74, R149). -/

namespace Sys2Proof.Machine

open Sys2Proof

/-- `MKWAVEID` (R100). -/
def mkWaveId (P : Profile) (length start : Nat) : Except OpError (Word × List Warning) :=
  match strictness P.strict (waveIdChecks length start) with
  | .error e => .error e
  | .ok ws => .ok (packWaveId length start, ws)

/-- `ENCPDEF` (R102, R103), the checks in the order of its pseudocode (assumption 12). R102 writes
`BadOperand("wave", ...)`: that the rest of the triple is the operand and the form asked for is the model's choice
(assumption 31). -/
def encodePdef (P : Profile) (entry startTime : Nat) (wave : WaveOperand) (gain timeFactor : Rat)
    (sustain : Nat) : Except OpError (List (Nat × Word) × List Warning) :=
  if P.nSlots ≤ entry then .error (.invalidAddress .entry entry ((P.nSlots : Int) - 1))
  else if waveFits P.waveFieldMode wave = false then
    .error (.badOperand .wave (.wave wave) (.waveForm P.waveFieldMode))
  else
    match strictness P.strict (pdefChecks P entry startTime wave gain timeFactor sustain) with
    | .error e => .error e
    | .ok ws => .ok (slotWrites P entry startTime wave gain timeFactor sustain, ws)

/-- The four write block selectors (R106). -/
def writeSelectors (P : Profile) : List Byte :=
  [P.cmd.pdefWr, P.cmd.waveWr, P.cmd.dcWr, P.cmd.miscWr]

/-- `ENCW` (R106): the unified frame, or the stage frame and then the commit frame. R106 writes
`BadOperand("commandByte", commandByte, ...)`: that the bound is the list of the write selectors is the model's choice
(assumption 31). -/
def encodeWrite (P : Profile) (address value : Nat) (commandByte : Byte) : Except OpError (List Frame) :=
  if commandByte ∈ writeSelectors P then
    match P.protoRev with
    | .unified => .ok [dec (packWord48 address value).toNat ++ [commandByte]]
    | .legacy  => .ok [dec (value % 2 ^ 32) ++ [P.cmd.dataset], dec (address % 2 ^ 16) ++ [commandByte]]
  else .error (.badOperand .commandByte (.num commandByte.toNat) (.oneOf (writeSelectors P)))

/-- `DECCHERR` (R107): the reports in mapping order; the first mask with a bit that has no channel is an
error. R107's operand has one pair for each kind of `ERR_KINDS`, in that order, and R107 names no error for another
list: that every list of pairs is decoded alike is the model's choice (assumption 30). -/
def decodeErrors (P : Profile) : List (String × Word) → Except OpError (List (String × Nat))
  | [] => .ok []
  | (kind, mask) :: rest =>
    if 2 ^ P.cMaxChannels ≤ mask.toNat then
      .error (.badOperand .mask (.num mask.toNat) (.atMost (2 ^ P.cMaxChannels - 1)))
    else
      match decodeErrors P rest with
      | .error e => .error e
      | .ok rs => .ok ((maskChannels P.cMaxChannels mask).map (fun ch => (kind, ch)) ++ rs)

/-- MKWAVEID (R100). -/
def execMkwaveid (length startAddress : Nat) (s : State) : Host.Outcome State Fault Refusal :=
  runFunction
    (match mkWaveId s.profile length startAddress with
      | .ok (w, ws) => .ok (.word w, ws)
      | .error e => .error e) s

/-- UNWAVEID (R108). -/
def execUnwaveid (waveId : Word) (s : State) : Host.Outcome State Fault Refusal :=
  let p := unpackWaveId waveId
  runFunction (.ok (.pair p.1 p.2, [])) s

/-- ENCPDEF (R102). -/
def execEncpdef (entry startTime : Nat) (wave : WaveOperand) (gain timeFactor : Rat) (sustain : Nat)
    (s : State) : Host.Outcome State Fault Refusal :=
  runFunction
    (match encodePdef s.profile entry startTime wave gain timeFactor sustain with
      | .ok (writes, ws) => .ok (.writes writes, ws)
      | .error e => .error e) s

/-- DECPDEF (R104). -/
def execDecpdef (r0 r1 r2 r3 : Word) (s : State) : Host.Outcome State Fault Refusal :=
  runFunction
    (match decodeQuad s.profile r0 r1 r2 r3 with
      | none => .ok (.empty, [])
      | some c => .ok (.pulse c, [])) s

/-- ENCW (R106). -/
def execEncw (address value : Nat) (commandByte : Byte) (s : State) :
    Host.Outcome State Fault Refusal :=
  runFunction
    (match encodeWrite s.profile address value commandByte with
      | .ok frames => .ok (.frames frames, [])
      | .error e => .error e) s

/-- DECCHERR (R107). -/
def execDeccherr (mapping : List (String × Word)) (s : State) : Host.Outcome State Fault Refusal :=
  runFunction
    (match decodeErrors s.profile mapping with
      | .ok rs => .ok (.reports rs, [])
      | .error e => .error e) s

/-- ILLEGAL.FN (R74, R149): "Nothing is computed, nothing changes". -/
def execIllegalFn (opsel : Byte) (s : State) : Host.Outcome State Fault Refusal :=
  runFunction (.error (.illegalOperation opsel)) s

end Sys2Proof.Machine
end

