-- ==== Sys2Proof/Machine/Quantize.lean ====
section
/-! DEFINITION. The quantization operations `SYNTH`, `V2DAC`, `PACKPAIR`, `UNPACKPAIR` and `PACKTABLE`
(spec 41_quantize.md). -/

namespace Sys2Proof.Machine

open Sys2Proof

/-- `SYNTH` (R90): the samples, padded to even length; the flags are those of the unpadded samples. -/
def synthTable (P : Profile) (waveLength : Nat) (coefficients : List Rat) : List Nat × List Warning :=
  let samples := tableSamples P waveLength coefficients
  (padEven samples, overflowFlags P samples)

/-- `V2DAC` (R92): the code and the flags of the voltage clamps. -/
def voltageToDac (P : Profile) (voltage reference : Rat) (m : RefMode) :
    Except OpError (Nat × List Warning) :=
  if reference ≤ 0 then .error (.badOperand .referenceVoltage (.num reference) .positive)
  else
    let range := voltageRange reference m
    .ok (dacCode P (clampVoltage voltage range) range, clampFlags voltage range)

/-- `PACKPAIR` (R93). -/
def packPair (P : Profile) (first second : Nat) : Except OpError (Word × List Warning) :=
  match strictness P.strict (pairChecks P first second) with
  | .error e => .error e
  | .ok ws => .ok (pairWord P first second, ws)

/-- Every pair packed in order; the first failing pair fails the whole (R95). -/
def packPairs (P : Profile) : List (Nat × Nat) → Except OpError (List Word × List Warning)
  | [] => .ok ([], [])
  | (first, second) :: rest =>
    match packPair P first second with
    | .error e => .error e
    | .ok (w, ws) =>
      match packPairs P rest with
      | .error e => .error e
      | .ok (words, flags) => .ok (w :: words, ws ++ flags)

/-- `PACKTABLE` (R95). -/
def packTable (P : Profile) (samples : List Nat) : Except OpError (List Word × List Warning) :=
  packPairs P (pairsOf (padEven samples))

/-- SYNTH (R90). -/
def execSynth (waveLength : Nat) (coefficients : List Rat) (s : State) :
    Host.Outcome State Fault Refusal :=
  let t := synthTable s.profile waveLength coefficients
  runFunction (.ok (.naturals t.1, t.2)) s

/-- V2DAC (R92). -/
def execV2dac (voltage referenceVoltage : Rat) (referenceMode : RefMode) (s : State) :
    Host.Outcome State Fault Refusal :=
  runFunction
    (match voltageToDac s.profile voltage referenceVoltage referenceMode with
      | .ok (code, ws) => .ok (.natural code, ws)
      | .error e => .error e) s

/-- PACKPAIR (R93). -/
def execPackpair (first second : Nat) (s : State) : Host.Outcome State Fault Refusal :=
  runFunction
    (match packPair s.profile first second with
      | .ok (w, ws) => .ok (.word w, ws)
      | .error e => .error e) s

/-- UNPACKPAIR (R94). -/
def execUnpackpair (word : Word) (s : State) : Host.Outcome State Fault Refusal :=
  let p := unpairWord s.profile word
  runFunction (.ok (.pair p.1 p.2, [])) s

/-- PACKTABLE (R95). -/
def execPacktable (samples : List Nat) (s : State) : Host.Outcome State Fault Refusal :=
  runFunction
    (match packTable s.profile samples with
      | .ok (words, ws) => .ok (.words words, ws)
      | .error e => .error e) s

end Sys2Proof.Machine
end

