-- ==== Sys2Proof/Machine/Composite.lean ====
section
/-! DEFINITION. The composite sequences (spec 43_register_access.md, section 4): the host's own sequences of
device commands and function operations, run to their end in one step (assumption 13). -/

namespace Sys2Proof.Machine

open Sys2Proof

/-! ### One register write (R130) -/

/-- One register write: `STAGE` then `COMMIT.x` under `legacy`, `UWRITE.x` under `unified` (R130). -/
def regWrite (space : Space) (address value : Nat) (s : State) : Except Refusal State :=
  match s.profile.protoRev with
  | .legacy =>
    match devStage (BitVec.ofNat 32 value) s with
    | .error r => .error r
    | .ok t => devCommit space (BitVec.ofNat 16 address) t
  | .unified => devUwrite space (packWord48 address value) s

/-- Register writes in order; the first refused one refuses the run. -/
def regWrites (space : Space) : List (Nat × Word) → State → Except Refusal State
  | [], s => .ok s
  | (address, value) :: rest, s =>
    match regWrite space address value.toNat s with
    | .error r => .error r
    | .ok t => regWrites space rest t

/-- REGWRITE.PDEF (R130). -/
def execRegwritePdef (address value : Nat) (s : State) : Host.Outcome State Fault Refusal :=
  runCommand (fun s => written (regWrite .pdef address value s)) s

/-- REGWRITE.WAVE (R130). -/
def execRegwriteWave (address value : Nat) (s : State) : Host.Outcome State Fault Refusal :=
  runCommand (fun s => written (regWrite .wave address value s)) s

/-- REGWRITE.DC (R130). -/
def execRegwriteDc (address value : Nat) (s : State) : Host.Outcome State Fault Refusal :=
  runCommand (fun s => written (regWrite .dc address value s)) s

/-- REGWRITE.MISC (R130). -/
def execRegwriteMisc (address value : Nat) (s : State) : Host.Outcome State Fault Refusal :=
  runCommand (fun s => written (regWrite .misc address value s)) s

/-! ### Channel selection (R138) -/

/-- The host's check of a channel argument: the operand of `CHSEL`, or `InvalidChannel` (R138). -/
def channelOperand (P : Profile) (c : ChannelArg) : Except OpError Nat :=
  match c with
  | .all => .ok P.chAll
  | .channel c =>
    if 0 ≤ c ∧ c < (P.cMaxChannels : Int) then .ok c.toNat
    else .error (.invalidChannel c ((P.cMaxChannels : Int) - 1))

/-- `CHSEL`, and "the host records `c` as its cached selection" (R138). -/
def selectAndRecord (c : Nat) (s : State) : Except Refusal State :=
  match devChsel c s with
  | .error r => .error r
  | .ok t => .ok { t with hostCache := t.chsel }

/-- The body of `SELECTCH` (R138): an out-of-range channel sends no bytes. -/
def selectChannel (c : ChannelArg) (s : State) : Except Refusal Ending :=
  match channelOperand s.profile c with
  | .error e => .ok (.failed e s)
  | .ok n => written (selectAndRecord n s)

/-- SELECTCH (R138). -/
def execSelectch (c : ChannelArg) (s : State) : Host.Outcome State Fault Refusal :=
  runCommand (selectChannel c) s

/-! ### Pulse definitions (R131, R132, R135) -/

/-- The four registers of a slot, read in offset order (R132). -/
def readQuad (entry : Nat) (s : State) : Except Refusal ((Word × Word × Word × Word) × State) :=
  match devReadPdef (BitVec.ofNat 16 (4 * entry)) s with
  | .error r => .error r
  | .ok (r0, s0) =>
    match devReadPdef (BitVec.ofNat 16 (4 * entry + 1)) s0 with
    | .error r => .error r
    | .ok (r1, s1) =>
      match devReadPdef (BitVec.ofNat 16 (4 * entry + 2)) s1 with
      | .error r => .error r
      | .ok (r2, s2) =>
        match devReadPdef (BitVec.ofNat 16 (4 * entry + 3)) s2 with
        | .error r => .error r
        | .ok (r3, s3) => .ok ((r0, r1, r2, r3), s3)

/-- The scan of `n` slots from `entry`, ascending, to the first empty one (R132). -/
def scanSlots : (n entry : Nat) → State → Except Refusal (Option Nat × State)
  | 0, _, s => .ok (none, s)
  | n + 1, entry, s =>
    match readQuad entry s with
    | .error r => .error r
    | .ok ((r0, r1, r2, r3), t) =>
      if scanEmpty s.profile r0 r1 r2 r3 then .ok (some entry, t) else scanSlots n (entry + 1) t

/-- `FINDSLOT`: the first empty slot, or slot 0 with `SLOT_WRAP` (R132, R167). -/
def findSlot (s : State) : Except Refusal (Nat × State) :=
  match scanSlots s.profile.nSlots 0 s with
  | .error r => .error r
  | .ok (some entry, t) => .ok (entry, t)
  | .ok (none, t) => .ok (0, t.warn [.slotWrap])

/-- The slot of a `WRITEPDEF`: the one given, or the scan's (R131). -/
def chooseSlot (entry : Option Nat) (s : State) : Except Refusal (Nat × State) :=
  match entry with
  | some e => .ok (e, s)
  | none => findSlot s

/-- The body of `WRITEPDEF`, in the order of R131: the slot, with the scan refused where its reads are; then `ENCPDEF`,
whose error "ends WRITEPDEF here"; then the four register writes. After an error the reads of the scan stand in `probes`
and not in `sent` (R154, R143, R166; assumption 29). -/
def writePdef (wave : WaveOperand) (startTime : Nat) (gain timeFactor : Rat) (sustain : Nat)
    (entry : Option Nat) (s : State) : Except Refusal Ending :=
  match chooseSlot entry s with
  | .error r => .error r
  | .ok (e, t) =>
    match encodePdef s.profile e startTime wave gain timeFactor sustain with
    | .error err => .ok (.failed err (s.probedTo t))
    | .ok (writes, ws) =>
      match regWrites .pdef writes (t.warn ws) with
      | .error r => .error r
      | .ok u => .ok (.done (.slot e) u)

/-- The register writes of `CLEARPDEF`: 0 to all four registers of every slot (R135). -/
def clearPdefWrites (P : Profile) : List (Nat × Word) :=
  (List.range (4 * P.nSlots)).map fun a => (a, 0#32)

/-- WRITEPDEF (R131). -/
def execWritepdef (wave : WaveOperand) (startTime : Nat) (gain timeFactor : Rat) (sustain : Nat)
    (entry : Option Nat) (s : State) : Host.Outcome State Fault Refusal :=
  runCommand (writePdef wave startTime gain timeFactor sustain entry) s

/-- FINDSLOT (R132). -/
def execFindslot (s : State) : Host.Outcome State Fault Refusal :=
  runCommand
    (fun s =>
      match findSlot s with
      | .error r => .error r
      | .ok (e, t) => .ok (.done (.slot e) t)) s

/-- CLEARPDEF (R135). -/
def execClearpdef (s : State) : Host.Outcome State Fault Refusal :=
  runCommand (fun s => written (regWrites .pdef (clearPdefWrites s.profile) s)) s

/-! ### Waveform tables (R133, R134, R136) -/

/-- The checks of `WRITEWAVE` and its packed words, before the first byte is sent (R133). -/
def tableWords (P : Profile) (startAddress : Nat) (samples : List Nat) :
    Except OpError (List Word × List Warning) :=
  if startAddress % 2 = 1 then .error (.alignmentError startAddress)
  else if P.waveRamCapacity < startAddress + roundUpEven samples.length then
    .error (.invalidAddress .startAddressPlusLength
      ((startAddress + roundUpEven samples.length : Nat) : Int) P.waveRamCapacity)
  else packTable P samples

/-- The register writes of a table: word `k` at `waveRegAddr(startAddress/2 + k)` (R133). -/
def tableWrites (P : Profile) (startAddress : Nat) (words : List Word) : List (Nat × Word) :=
  words.zipIdx.map fun wk => (waveRegAddr P (startAddress / 2 + wk.2), wk.1)

/-- `if broadcastAll: SELECTCH(all)` (R133). -/
def broadcast (broadcastAll : Bool) (s : State) : Except Refusal State :=
  if broadcastAll then selectAndRecord s.profile.chAll s else .ok s

/-- The body of `WRITEWAVE` (R133). -/
def writeTable (startAddress : Nat) (samples : List Nat) (broadcastAll : Bool) (s : State) :
    Except Refusal Ending :=
  match tableWords s.profile startAddress samples with
  | .error e => .ok (.failed e s)
  | .ok (words, ws) =>
    match broadcast broadcastAll s with
    | .error r => .error r
    | .ok t => written (regWrites .wave (tableWrites s.profile startAddress words) (t.warn ws))

/-- The samples of `n` pairs from pair `p`, read one register at a time (R134). -/
def readPairs : (n p : Nat) → State → Except Refusal (List Nat × State)
  | 0, _, s => .ok ([], s)
  | n + 1, p, s =>
    match devReadWave (BitVec.ofNat 16 (waveRegAddr s.profile p)) s with
    | .error r => .error r
    | .ok (w, t) =>
      match readPairs n (p + 1) t with
      | .error r => .error r
      | .ok (rest, u) =>
        let pair := unpairWord s.profile w
        .ok (pair.1 :: pair.2 :: rest, u)

/-- The number of pairs that cover a range of samples (R134). -/
def pairsCovering (startAddress length : Nat) : Nat :=
  (startAddress + length - 1) / 2 + 1 - startAddress / 2

/-- The body of `READWAVE` (R134). -/
def readTable (startAddress length : Nat) (s : State) : Except Refusal Ending :=
  if s.profile.waveRamCapacity < startAddress + length then
    .ok (.failed (.invalidAddress .startAddressPlusLength ((startAddress + length : Nat) : Int)
      s.profile.waveRamCapacity) s)
  else if length = 0 then .ok (.done (.naturals []) s)
  else
    match readPairs (pairsCovering startAddress length) (startAddress / 2) s with
    | .error r => .error r
    | .ok (samples, t) => .ok (.done (.naturals ((samples.drop (startAddress % 2)).take length)) t)

/-- The register writes of `CLEARWAVE`: 0 to every pair (R136). -/
def clearWaveWrites (P : Profile) : List (Nat × Word) :=
  (List.range (P.waveRamCapacity / 2)).map fun p => (waveRegAddr P p, 0#32)

/-- WRITEWAVE (R133). -/
def execWritewave (startAddress : Nat) (samples : List Nat) (broadcastAll : Bool) (s : State) :
    Host.Outcome State Fault Refusal :=
  runCommand (writeTable startAddress samples broadcastAll) s

/-- READWAVE (R134). -/
def execReadwave (startAddress length : Nat) (s : State) : Host.Outcome State Fault Refusal :=
  runCommand (readTable startAddress length) s

/-- CLEARWAVE (R136). -/
def execClearwave (s : State) : Host.Outcome State Fault Refusal :=
  runCommand (fun s => written (regWrites .wave (clearWaveWrites s.profile) s)) s

/-! ### Channel errors (R137) -/

/-- The body of `READERRS`, in the order of R137: the masks of `ERRQ` are drawn, `DECCHERR` decodes them, and the reports
are counted. Where a mask has a bit without a channel the operation ends with an error, so it "has changed no block
state and sent no byte" (R154, R166), the query not counted (assumption 29). -/
def readErrors (s : State) : Except Refusal Ending :=
  match decodeErrors s.profile s.errorMapping with
  | .error e => .ok (.failed e (s.probedTo (devErrq s)))
  | .ok rs => .ok (.done (.counted rs rs.length) (devErrq s))

/-- READERRS (R137). -/
def execReaderrs (s : State) : Host.Outcome State Fault Refusal :=
  runCommand readErrors s

end Sys2Proof.Machine
end

