-- ==== Sys2Proof/Machine/Polynomial.lean ====
section
/-! DEFINITION. The evaluator operations `EVALPOLY` and `PSHAPE` (spec 40_polynomial.md). -/

namespace Sys2Proof.Machine

open Sys2Proof

/-- `EVALPOLY` (R80): `BadOperand` where the sum would index past the list. -/
def evalPoly (P : Profile) (degree : Nat) (x : Rat) (coefficients : List Rat) : Except OpError Rat :=
  if coefficients.length < degree then
    .error (.badOperand .degree (.num degree) (.atMost coefficients.length))
  else .ok (polyValue P degree x coefficients)

/-- `PSHAPE` (R82), the checks in the order of its pseudocode. -/
def pulseShape (P : Profile) (currentTime startTime riseTicks : Int) (timeFactor : Rat) (holdTicks : Int)
    (gain : Rat) (coefficients : List Rat) : Except OpError Rat :=
  if riseTicks ≤ 0 then .error (.badOperand .riseTicks (.num riseTicks) .positive)
  else if timeFactor ≤ 0 then .error (.badOperand .timeFactor (.num timeFactor) .positive)
  else if holdTicks < 0 then .error (.badOperand .holdTicks (.num holdTicks) .nonNegative)
  else
    let x := pulseArg (currentTime - startTime) riseTicks holdTicks timeFactor
    .ok (polyValue P coefficients.length (x / (riseTicks : Rat)) coefficients * gain)

/-- A rational result without flags. -/
def rationalResult (v : Except OpError Rat) : Except OpError (Result × List Warning) :=
  match v with
  | .ok q => .ok (.rational q, [])
  | .error e => .error e

/-- EVALPOLY (R80). -/
def execEvalpoly (degree : Nat) (x : Rat) (coefficients : List Rat) (s : State) :
    Host.Outcome State Fault Refusal :=
  runFunction (rationalResult (evalPoly s.profile degree x coefficients)) s

/-- PSHAPE (R82). -/
def execPshape (currentTime startTime riseTicks : Int) (timeFactor : Rat) (holdTicks : Int) (gain : Rat)
    (coefficients : List Rat) (s : State) : Host.Outcome State Fault Refusal :=
  runFunction (rationalResult
    (pulseShape s.profile currentTime startTime riseTicks timeFactor holdTicks gain coefficients)) s

end Sys2Proof.Machine
end

