-- ==== Sys2Proof/Machine/Dispatch.lean ====
section
/-! DEFINITION. The dispatch: one arm for each operation, each one direct call of its meaning. -/

namespace Sys2Proof.Machine

open Sys2Proof

/-- The meaning of every operation. -/
def exec (i : Instr) (s : State) : Host.Outcome State Fault Refusal :=
  match i with
  | .evalpoly degree x coefficients => Sys2Proof.Machine.execEvalpoly degree x coefficients s
  | .pshape currentTime startTime riseTicks timeFactor holdTicks gain coefficients => Sys2Proof.Machine.execPshape currentTime startTime riseTicks timeFactor holdTicks gain coefficients s
  | .synth waveLength coefficients => Sys2Proof.Machine.execSynth waveLength coefficients s
  | .v2dac voltage referenceVoltage referenceMode => Sys2Proof.Machine.execV2dac voltage referenceVoltage referenceMode s
  | .packpair first second => Sys2Proof.Machine.execPackpair first second s
  | .unpackpair word => Sys2Proof.Machine.execUnpackpair word s
  | .packtable samples => Sys2Proof.Machine.execPacktable samples s
  | .mkwaveid length startAddress => Sys2Proof.Machine.execMkwaveid length startAddress s
  | .unwaveid waveId => Sys2Proof.Machine.execUnwaveid waveId s
  | .encpdef entry startTime wave gain timeFactor sustain => Sys2Proof.Machine.execEncpdef entry startTime wave gain timeFactor sustain s
  | .decpdef r0 r1 r2 r3 => Sys2Proof.Machine.execDecpdef r0 r1 r2 r3 s
  | .encw address value commandByte => Sys2Proof.Machine.execEncw address value commandByte s
  | .deccherr mapping => Sys2Proof.Machine.execDeccherr mapping s
  | .illegalFn opsel => Sys2Proof.Machine.execIllegalFn opsel s
  | .version => Sys2Proof.Machine.execVersion s
  | .regdump => Sys2Proof.Machine.execRegdump s
  | .reset => Sys2Proof.Machine.execReset s
  | .chsel c => Sys2Proof.Machine.execChsel c s
  | .chen m => Sys2Proof.Machine.execChen m s
  | .readPdef address => Sys2Proof.Machine.execReadPdef address s
  | .commitPdef address => Sys2Proof.Machine.execCommitPdef address s
  | .uwritePdef word48 => Sys2Proof.Machine.execUwritePdef word48 s
  | .readWave address => Sys2Proof.Machine.execReadWave address s
  | .commitWave address => Sys2Proof.Machine.execCommitWave address s
  | .uwriteWave word48 => Sys2Proof.Machine.execUwriteWave word48 s
  | .commitDc address => Sys2Proof.Machine.execCommitDc address s
  | .uwriteDc word48 => Sys2Proof.Machine.execUwriteDc word48 s
  | .readMisc address => Sys2Proof.Machine.execReadMisc address s
  | .commitMisc address => Sys2Proof.Machine.execCommitMisc address s
  | .uwriteMisc word48 => Sys2Proof.Machine.execUwriteMisc word48 s
  | .errq => Sys2Proof.Machine.execErrq s
  | .stage value => Sys2Proof.Machine.execStage value s
  | .illegalFrame digits last => Sys2Proof.Machine.execIllegalFrame digits last s
  | .regwritePdef address value => Sys2Proof.Machine.execRegwritePdef address value s
  | .regwriteWave address value => Sys2Proof.Machine.execRegwriteWave address value s
  | .regwriteDc address value => Sys2Proof.Machine.execRegwriteDc address value s
  | .regwriteMisc address value => Sys2Proof.Machine.execRegwriteMisc address value s
  | .selectch c => Sys2Proof.Machine.execSelectch c s
  | .writepdef wave startTime gain timeFactor sustain entry => Sys2Proof.Machine.execWritepdef wave startTime gain timeFactor sustain entry s
  | .findslot => Sys2Proof.Machine.execFindslot s
  | .writewave startAddress samples broadcastAll => Sys2Proof.Machine.execWritewave startAddress samples broadcastAll s
  | .readwave startAddress length => Sys2Proof.Machine.execReadwave startAddress length s
  | .clearpdef => Sys2Proof.Machine.execClearpdef s
  | .clearwave => Sys2Proof.Machine.execClearwave s
  | .readerrs => Sys2Proof.Machine.execReaderrs s

end Sys2Proof.Machine
end

