-- ==== Sys2Proof/Machine/Fetch.lean ====
section
/-! DEFINITION. How the host's program is presented (R23): the next operation, the advance of the index, and
the placing of a request where the next step finds it. -/

namespace Sys2Proof.Machine

open Sys2Proof

/-- The next operation of the program, if there is one (R23). -/
def State.fetch (s : State) : Option Request := s.program[s.pc]?

/-- "advances by 1 after every operation whatever its outcome" (R23). -/
def State.advance (s : State) : State := { s with pc := s.pc + 1 }

/-- The outcome of an operation, with the index advanced past it. -/
def advanced (o : Host.Outcome State Fault Refusal) : Host.Outcome State Fault Refusal :=
  match o with
  | .next t => .next t.advance
  | .fault f => .fault f
  | .refused r => .refused r

/-- The program with a request as its next and last operation; the index changes only where it stands
past the end of the program, which no run reaches. -/
def State.placeRequest (r : Request) (s : State) : State :=
  { s with program := s.program.take s.pc ++ [r], pc := min s.pc s.program.length }

end Sys2Proof.Machine
end

