-- ==== Sys2Proof/Machine/Step.lean ====
section
/-! DEFINITION. One step: the next operation of the host's program is decoded and executed to completion, and
the index advances (R16, R23). -/

namespace Sys2Proof.Machine

open Sys2Proof

/-- One step of the block (R16, R23, R50). -/
def step (s : State) : Host.Outcome State Fault Refusal :=
  match s.fetch with
  | none => .fault .endOfRun
  | some r =>
    match decode s.profile r with
    | .error e => .refused (.undecoded e)
    | .ok i => advanced (exec i s)

/-- The state with a table row's bits as the next operation (assumption 10). -/
def State.withFetchWord (s : State) (_nbits w : Nat) : State := s.placeRequest (tableRequest s.profile w)

end Sys2Proof.Machine
end

