-- ==== Sys2Proof/Machine/Session.lean ====
section
/-! DEFINITION. The Device Session's state machine and handshake (R147, R150): surrounding software, out of
scope by R5 c, "recorded because three errors live in it". No part of it is state of the block and no step
runs it: the model starts with the session `Ready` (assumption 8). -/

namespace Sys2Proof.Machine

open Sys2Proof

/-- The states of the session (R150). `versionMismatch` and `noDevice` are where a failed `connect` ends. -/
inductive Session where
  | disconnected | connecting | versionChecking | ready | resetting | versionMismatch | noDevice
deriving DecidableEq, Repr

/-- What moves the session (R150). -/
inductive SessionEvent where
  | connect
  | linkOpened
  | handshake (lines : List Line)
  | reset
  | drained
  | transportFailure
deriving DecidableEq, Repr

/-- Whether a token stands in the concatenation of the handshake's lines (R147). -/
def tokenPresent (token : List Byte) (lines : List Line) : Bool :=
  decide (token <:+: lines.flatten)

/-- The error of a handshake, if it fails: `NoDevice` on zero lines, `VersionMismatch` where the
concatenation lacks either token (R147). -/
def handshakeError (lines : List Line) : Option OpError :=
  if lines = [] then some .noDevice
  else if tokenPresent Config.versionToken1 lines && tokenPresent Config.versionToken2 lines then none
  else some (.versionMismatch lines)

/-- The transitions of R150; an event that does not apply leaves the session where it is. R150 gives no transition out
of `noDevice` and does not call it terminal: that `connect` does nothing there is the model's choice (assumption
28). -/
def Session.next (st : Session) (ev : SessionEvent) : Session :=
  match st, ev with
  | _, .transportFailure => .disconnected
  | .disconnected, .connect => .connecting
  | .connecting, .linkOpened => .versionChecking
  | .versionChecking, .handshake lines =>
    match handshakeError lines with
    | none => .ready
    | some .noDevice => .noDevice
    | some _ => .versionMismatch
  | .ready, .reset => .resetting
  | .resetting, .drained => .ready
  | st, _ => st

end Sys2Proof.Machine
end

