-- ==== Sys2Proof/Safety.lean ====
section
/-! DEFINITION. What claims are about: what two states share, and the invariant of the block. -/

namespace Sys2Proof

open Machine

/-- The host's side and the profile are the same. -/
structure SameHost (s t : State) : Prop where
  profile : t.profile = s.profile
  program : t.program = s.program
  pc : t.pc = s.pc

/-- Every pulse-definition register and every sample reads the same in every channel context (R21). -/
structure SameContexts (s t : State) : Prop where
  pdef : ∀ ch a, t.pdefAt ch a = s.pdefAt ch a
  wram : ∀ ch a, t.sampleAt ch a = s.sampleAt ch a

/-- Every DC and miscellaneous register reads the same (R36). -/
structure SameCommon (s t : State) : Prop where
  dc : ∀ a, t.dcAt a = s.dcAt a
  misc : ∀ a, t.miscAt a = s.miscAt a

/-- Every element of the block's state tuple (R20) reads the same; `CHERR` has no stored value (R35). -/
structure SameBlock (s t : State) : Prop where
  contexts : SameContexts s t
  common : SameCommon s t
  staged : t.staged = s.staged
  chsel : t.chsel = s.chsel

/-- The flags of a response, as a set, are these (R14, R24). -/
def Flags (t : State) (ws : List Warning) : Prop := ∀ w, w ∈ t.response.warnings ↔ w ∈ ws

/-- The flags of a response other than the device's own error lines are these (R24). -/
def OwnFlags (t : State) (ws : List Warning) : Prop :=
  ∀ w, (∀ line, w ≠ .deviceError line) → (w ∈ t.response.warnings ↔ w ∈ ws)

/-- The operation ended with this result, and no error (R14). -/
def Returns (t : State) (r : Result) : Prop := t.response.result = some r ∧ t.response.error = none

/-- What crossed the Link for the operation: the host's frames and the device's data lines. -/
def OnLink (t : State) (sent : List Frame) (lines : List Line) : Prop :=
  t.response.sent = sent ∧ t.response.lines = lines

/-- What a function operation leaves alone: it "reads and writes no instrument state" (R18), and nothing
crosses the Link. -/
structure FunctionFrame (s t : State) : Prop where
  host : SameHost s t
  block : SameBlock s t
  cache : t.hostCache = s.hostCache
  link : OnLink t [] []

/-- A function operation answers a result with these flags, and changes nothing else. -/
def Answers (i : Instr) (s : State) (r : Result) (ws : List Warning) : Prop :=
  ∃ t, exec i s = .next t ∧ Returns t r ∧ Flags t ws ∧ FunctionFrame s t

/-- An operation ends with an error: no result, no flags (R14, R152). -/
def EndsInError (t : State) (e : OpError) : Prop :=
  t.response.result = none ∧ t.response.error = some e ∧ t.response.warnings = []

/-- An operation fails with an error, sends nothing, and changes nothing else (R154). -/
def Fails (i : Instr) (s : State) (e : OpError) : Prop :=
  ∃ t, exec i s = .next t ∧ EndsInError t e ∧ FunctionFrame s t

/-- One device command completed: its result, its frame, its data lines, and the error-marked lines of the
device as its only flags (R115). -/
structure Exchanged (s t : State) (r : Result) (frame : Frame) (lines : List Line) : Prop where
  host : SameHost s t
  cache : t.hostCache = s.hostCache
  returns : Returns t r
  flags : Flags t (s.deviceErrors.map .deviceError)
  link : OnLink t [frame] lines

/-- The channels a channel-scoped write reaches (R115 a). -/
def Reached (s : State) (ch : Nat) : Prop :=
  s.chsel = some (.one ch) ∨ (s.chsel = some .all ∧ ch < s.profile.cMaxChannels)

/-- Every decoded field of a slot of a channel is zero: "`fieldsum(d) = 0` exactly when every decoded field is
0" (R132). -/
def SlotBlank (s : State) (ch entry : Nat) : Prop :=
  (s.pdefAt ch (4 * entry)).toNat % 2 ^ 24 = 0
    ∧ (s.profile.waveFieldMode = .waveId → (s.pdefAt ch (4 * entry + 1)).toNat = 0)
    ∧ (s.profile.waveFieldMode = .addrLen →
        (s.pdefAt ch (4 * entry + 1)).toNat % 2 ^ 12 = 0
          ∧ (s.pdefAt ch (4 * entry + 1)).toNat / 2 ^ 16 % 2 ^ 12 = 0)
    ∧ (s.pdefAt ch (4 * entry + 2)).toNat = 0
    ∧ (s.pdefAt ch (4 * entry + 3)).toNat % 2 ^ 17 = 0

/-- What a pulse-definition register holds after a write, by its offset in the slot: every bit, or, where
`PDEF_KEEP_UNUSED` is false, the bits of its fields alone, "a write clears the bits outside the fields" (R26 to
R30). -/
structure RegisterHolds (P : Profile) (a : Nat) (written held : Word) : Prop where
  all : P.pdefKeepUnused = true → held = written
  start : P.pdefKeepUnused = false → a % 4 = 0 → held.toNat = written.toNat % 2 ^ 24
  waveId : P.pdefKeepUnused = false → a % 4 = 1 → P.waveFieldMode = .waveId → held = written
  addrLen : P.pdefKeepUnused = false → a % 4 = 1 → P.waveFieldMode = .addrLen →
    held.toNat = written.toNat / 2 ^ 16 % 2 ^ 12 * 2 ^ 16 + written.toNat % 2 ^ 12
  scale : P.pdefKeepUnused = false → a % 4 = 2 → held = written
  sustain : P.pdefKeepUnused = false → a % 4 = 3 → held.toNat = written.toNat % 2 ^ 17

/-- A `READERRS` that completes: the reports of the masks and their number, "the number of set bits over all masks",
for one query on the Link, and no change of the block (R129, R137). -/
structure CountsErrors (s t : State) (mapping : List (String × Word)) (reports : List (String × Nat)) : Prop where
  returns : Returns t (.counted reports reports.length)
  decoded : Answers (.deccherr mapping) s (.reports reports) []
  count : reports.length = (mapping.map fun km =>
    (List.range s.profile.cMaxChannels).countP fun j => km.2.toNat.testBit j).sum
  link : OnLink t [[s.profile.cmd.errq]] []
  flags : OwnFlags t []
  host : SameHost s t
  block : SameBlock s t
  cache : t.hostCache = s.hostCache

/-- What is staged after a register write, by revision: a commit consumes it, a unified write leaves it
(R33, R130, R139). -/
def StagedAfterWrite (s t : State) : Prop :=
  (s.profile.protoRev = .legacy → t.staged = none)
    ∧ (s.profile.protoRev = .unified → t.staged = s.staged)

/-- The frames of register writes in order, each those of `ENCW`: the value and then the address under `legacy`,
the packed word under `unified` (R106, R130). -/
def registerFrames (P : Profile) (selector : Byte) (writes : List (Nat × Word)) : List Frame :=
  match P.protoRev with
  | .legacy => writes.flatMap fun aw => [dec aw.2.toNat ++ [P.cmd.dataset], dec aw.1 ++ [selector]]
  | .unified => writes.map fun aw => dec (aw.1 * 2 ^ 32 + aw.2.toNat) ++ [selector]

/-- The elements of a register space that an operation writes (R39, column "written by"). -/
def Instr.writesSpace (space : Space) : Instr → Bool
  | .evalpoly _ _ _ => false
  | .pshape _ _ _ _ _ _ _ => false
  | .synth _ _ => false
  | .v2dac _ _ _ => false
  | .packpair _ _ => false
  | .unpackpair _ => false
  | .packtable _ => false
  | .mkwaveid _ _ => false
  | .unwaveid _ => false
  | .encpdef _ _ _ _ _ _ => false
  | .decpdef _ _ _ _ => false
  | .encw _ _ _ => false
  | .deccherr _ => false
  | .illegalFn _ => false
  | .version => false
  | .regdump => false
  | .reset => true
  | .chsel _ => false
  | .chen _ => false
  | .readPdef _ => false
  | .commitPdef _ => decide (space = .pdef)
  | .uwritePdef _ => decide (space = .pdef)
  | .readWave _ => false
  | .commitWave _ => decide (space = .wave)
  | .uwriteWave _ => decide (space = .wave)
  | .commitDc _ => decide (space = .dc)
  | .uwriteDc _ => decide (space = .dc)
  | .readMisc _ => false
  | .commitMisc _ => decide (space = .misc)
  | .uwriteMisc _ => decide (space = .misc)
  | .errq => false
  | .stage _ => false
  | .illegalFrame _ _ => false
  | .regwritePdef _ _ => decide (space = .pdef)
  | .regwriteWave _ _ => decide (space = .wave)
  | .regwriteDc _ _ => decide (space = .dc)
  | .regwriteMisc _ _ => decide (space = .misc)
  | .selectch _ => false
  | .writepdef _ _ _ _ _ _ => decide (space = .pdef)
  | .findslot => false
  | .writewave _ _ _ => decide (space = .wave)
  | .readwave _ _ => false
  | .clearpdef => decide (space = .pdef)
  | .clearwave => decide (space = .wave)
  | .readerrs => false

/-- The operations that write `STAGED`: `STAGE`, every `COMMIT.x`, `RESET`, and the composites made of
them (R39). -/
def Instr.writesStaged : Instr → Bool
  | .evalpoly _ _ _ => false
  | .pshape _ _ _ _ _ _ _ => false
  | .synth _ _ => false
  | .v2dac _ _ _ => false
  | .packpair _ _ => false
  | .unpackpair _ => false
  | .packtable _ => false
  | .mkwaveid _ _ => false
  | .unwaveid _ => false
  | .encpdef _ _ _ _ _ _ => false
  | .decpdef _ _ _ _ => false
  | .encw _ _ _ => false
  | .deccherr _ => false
  | .illegalFn _ => false
  | .version => false
  | .regdump => false
  | .reset => true
  | .chsel _ => false
  | .chen _ => false
  | .readPdef _ => false
  | .commitPdef _ => true
  | .uwritePdef _ => false
  | .readWave _ => false
  | .commitWave _ => true
  | .uwriteWave _ => false
  | .commitDc _ => true
  | .uwriteDc _ => false
  | .readMisc _ => false
  | .commitMisc _ => true
  | .uwriteMisc _ => false
  | .errq => false
  | .stage _ => true
  | .illegalFrame _ _ => false
  | .regwritePdef _ _ => true
  | .regwriteWave _ _ => true
  | .regwriteDc _ _ => true
  | .regwriteMisc _ _ => true
  | .selectch _ => false
  | .writepdef _ _ _ _ _ _ => true
  | .findslot => false
  | .writewave _ _ _ => true
  | .readwave _ _ => false
  | .clearpdef => true
  | .clearwave => true
  | .readerrs => false

/-- The operations that write `CHSEL`: `CHSEL`, `RESET`, and the composites that select: `SELECTCH`, and
`WRITEWAVE` where it broadcasts (R39, R133, R138). -/
def Instr.writesChsel : Instr → Bool
  | .evalpoly _ _ _ => false
  | .pshape _ _ _ _ _ _ _ => false
  | .synth _ _ => false
  | .v2dac _ _ _ => false
  | .packpair _ _ => false
  | .unpackpair _ => false
  | .packtable _ => false
  | .mkwaveid _ _ => false
  | .unwaveid _ => false
  | .encpdef _ _ _ _ _ _ => false
  | .decpdef _ _ _ _ => false
  | .encw _ _ _ => false
  | .deccherr _ => false
  | .illegalFn _ => false
  | .version => false
  | .regdump => false
  | .reset => true
  | .chsel _ => true
  | .chen _ => false
  | .readPdef _ => false
  | .commitPdef _ => false
  | .uwritePdef _ => false
  | .readWave _ => false
  | .commitWave _ => false
  | .uwriteWave _ => false
  | .commitDc _ => false
  | .uwriteDc _ => false
  | .readMisc _ => false
  | .commitMisc _ => false
  | .uwriteMisc _ => false
  | .errq => false
  | .stage _ => false
  | .illegalFrame _ _ => false
  | .regwritePdef _ _ => false
  | .regwriteWave _ _ => false
  | .regwriteDc _ _ => false
  | .regwriteMisc _ _ => false
  | .selectch _ => true
  | .writepdef _ _ _ _ _ _ => false
  | .findslot => false
  | .writewave _ _ broadcastAll => broadcastAll
  | .readwave _ _ => false
  | .clearpdef => false
  | .clearwave => false
  | .readerrs => false

/-- Two states that differ, if at all, in the contexts of channels other than `c`, which is selected, and in
the answer of the operation before. -/
structure AgreeOn (c : Nat) (s t : State) : Prop where
  host : SameHost s t
  common : SameCommon s t
  staged : t.staged = s.staged
  selected : s.chsel = some (.one c) ∧ t.chsel = some (.one c)
  cache : t.hostCache = s.hostCache
  draws : t.draws = s.draws
  pdef : ∀ a, t.pdefAt c a = s.pdefAt c a
  wram : ∀ a, t.sampleAt c a = s.sampleAt c a

/-- A selection names a channel the block has (R34). -/
def selectionValid (P : Profile) (sel : Option Selection) : Prop :=
  ∀ c, sel = some (.one c) → c < P.cMaxChannels

/-- The invariant of the block, in every state that an operation leaves. -/
structure Inv (s : State) : Prop where
  /-- The profile meets its constraints (R6 to R10, R67). -/
  profile : s.profile.WF
  /-- The index never passes the end of the program (R23). -/
  pc : s.pc ≤ s.program.length
  /-- The register spaces keep their canonical form. -/
  memory : s.memoryWf = true
  /-- Registers exist only at `ch < C_MAX_CHANNELS`, `a < 4*N_SLOTS` (R20), and keep no bit that
  `PDEF_KEEP_UNUSED` clears (R30). -/
  pdef : ∀ e ∈ s.pdef, e.1.1 < s.profile.cMaxChannels ∧ e.1.2 < 4 * s.profile.nSlots
    ∧ keptBits s.profile e.1.2 e.2 = e.2
  /-- Samples exist only below the capacity and have `SAMPLE_BITS` bits (R20, R32). -/
  wram : ∀ e ∈ s.wram, e.1.1 < s.profile.cMaxChannels ∧ e.1.2 < s.profile.waveRamCapacity
    ∧ e.2 < 2 ^ s.profile.addrBits
  /-- DC addresses are 16-bit and belong to no channel (R20, R21). -/
  dcreg : ∀ e ∈ s.dcreg, e.1.1 = 0 ∧ e.1.2 < 65536
  /-- MISC addresses are 16-bit and belong to no channel (R20, R21). -/
  misc : ∀ e ∈ s.misc, e.1.1 = 0 ∧ e.1.2 < 65536
  /-- `CHSEL` is none, all, or a channel (R20). -/
  chsel : selectionValid s.profile s.chsel
  /-- So is the host's cached selection. -/
  hostCache : selectionValid s.profile s.hostCache
  /-- Nothing is ever staged under the unified revision (R61, R139). -/
  staged : s.profile.protoRev = .unified → s.staged = none
  /-- Every later draw is a new one (R13). -/
  epoch : s.epoch < s.draws
  /-- "When `error` is present the result is absent" (R14), and the flags are dropped (R152). -/
  answer : s.response.error ≠ none → s.response.result = none ∧ s.response.warnings = []
  /-- The flags are a set (R14). -/
  flags : s.response.warnings.Nodup

/-- One state follows another by a step. -/
def Follows (s t : State) : Prop := step s = .next t

/-- A state a run from `s` reaches. -/
inductive Reaches (s : State) : State → Prop where
  | refl : Reaches s s
  | tail {t u : State} : Reaches s t → Follows t u → Reaches s u

end Sys2Proof
end

