-- ==== Sys2Proof/Certificates/Slice0/Obligations.lean ====
section
/-! DEFINITION. The statements for the provers: what spec/ says the operations, the encodings and the block as a
whole do. -/

open Sys2Proof Sys2Proof.Machine

/-! ### The machine -/

/-- The machine right after reset meets the invariant of the block. That the profile is `P0` and that no
program is loaded are the model's choices (assumptions 1 and 3); what is staged and selected is R39. -/
def Obligations.ResetMeetsInvariant : Prop :=
  Inv State.reset ∧ State.reset.staged = none ∧ State.reset.chsel = none

/-- Every step keeps the invariant: profile constraints, canonical register spaces, elements only where R20
puts them, legal selections, and an answer that is a result or an error (R14, R20, R23, R32, R34). -/
def Obligations.EveryStepKeepsInvariant : Prop :=
  ∀ s t : State, Inv s → step s = .next t → Inv t

/-- The step executes the operation that the request at the index decodes to, and advances the index by 1
whatever the outcome; past the last request the run has ended; a request that is no operation refuses
(R16, R23). -/
def Obligations.StepRunsDecodedOperation : Prop :=
  ∀ s : State,
    (∀ r i, s.program[s.pc]? = some r → decode s.profile r = .ok i →
      step s =
        match exec i s with
        | .next t => .next { t with pc := t.pc + 1 }
        | .fault f => .fault f
        | .refused e => .refused e)
    ∧ (∀ r e, s.program[s.pc]? = some r → decode s.profile r = .error e →
        step s = .refused (.undecoded e))
    ∧ (s.program.length ≤ s.pc → step s = .fault .endOfRun)

/-- Only the operations that the table of R39 names write an element of the block: `PDEF`, `WRAM`, `DCREG`,
`MISC`, `STAGED` and `CHSEL` are unchanged by every other operation, and no operation writes the
profile, the program or its index (R23, R37, R39). -/
def Obligations.OnlyListedWritersWrite : Prop :=
  ∀ (i : Instr) (s t : State), exec i s = .next t →
    SameHost s t
    ∧ (i.writesSpace .pdef = false → ∀ ch a, t.pdefAt ch a = s.pdefAt ch a)
    ∧ (i.writesSpace .wave = false → ∀ ch a, t.sampleAt ch a = s.sampleAt ch a)
    ∧ (i.writesSpace .dc = false → ∀ a, t.dcAt a = s.dcAt a)
    ∧ (i.writesSpace .misc = false → ∀ a, t.miscAt a = s.miscAt a)
    ∧ (i.writesStaged = false → t.staged = s.staged)
    ∧ (i.writesChsel = false → t.chsel = s.chsel)

/-- With one channel selected, no operation but a reset or a broadcast touches the context of another
channel (R21, R115). -/
def Obligations.OtherChannelsUntouched : Prop :=
  ∀ (i : Instr) (s t : State) (c : Nat), s.chsel = some (.one c) → i ≠ .reset →
    (∀ start samples, i ≠ .writewave start samples true) → exec i s = .next t →
    ∀ ch, ch ≠ c → ∀ a, t.pdefAt ch a = s.pdefAt ch a ∧ t.sampleAt ch a = s.sampleAt ch a

/-- With one channel selected, no answer depends on the context of another channel: two states that agree
outside those contexts give the same response (R21, R115 b). -/
def Obligations.AnswersIgnoreOtherChannels : Prop :=
  ∀ (i : Instr) (s s' t : State) (c : Nat), AgreeOn c s s' → exec i s = .next t →
    ∃ t', exec i s' = .next t' ∧ t'.response = t.response

/-- An operation that ends with an error has changed no element of the block, sent no byte, and returns neither a
result nor a flag (R154). That no byte counts as sent where `WRITEPDEF` without an entry, or `READERRS`, fails in the
check that the pseudocode of R131 and R137 puts after a read of the device, follows these words of R154, with the frames
of those reads kept aside in `probes`: the model's choice (assumption 29). -/
def Obligations.ErrorsLeaveNoTrace : Prop :=
  ∀ (i : Instr) (s t : State), exec i s = .next t → t.response.error ≠ none →
    SameBlock s t ∧ SameHost s t ∧ t.hostCache = s.hostCache ∧ OnLink t [] []
    ∧ t.response.result = none ∧ t.response.warnings = []

/-! ### Encoding -/

/-- Decoding the request of a well-formed operation gives the operation back, with every operand (R55, R60 to
R62, R68, R70, R75). -/
def Obligations.DecodeInvertsEncode : Prop :=
  ∀ P : Profile, P.WF → ∀ i : Instr, i.wf P = true → decode P (encode P i) = .ok i

/-- A frame that decodes is the encoding of what it decodes to, so no two frames are one command (R75). -/
def Obligations.EncodeInvertsFrameDecode : Prop :=
  ∀ (P : Profile) (bytes : Frame) (i : Instr), decodeFrame P bytes = .ok i →
    encode P i = .frame bytes ∧ i.wf P = true

/-- A byte stream made of the frames of well-formed commands decodes to those commands and an empty tail; an
illegal frame after them is marked, whatever follows it (R75). -/
def Obligations.LinkStreamDecodes : Prop :=
  ∀ P : Profile, P.WF → ∀ (is : List Instr) (fs : List Frame),
    List.Forall₂ (fun i f => i.wf P = true ∧ (∀ d l, i ≠ .illegalFrame d l) ∧ encode P i = .frame f) is fs →
    decodeLink P fs.flatten = (is, .tail [])
    ∧ ∀ (d : List Byte) (l : Byte) (rest : List Byte), (Instr.illegalFrame d l).wf P = true →
        decodeLink P (fs.flatten ++ d ++ [l] ++ rest) = (is, .illegal d l)

/-- Three words of the opcode table and two frames decode to the operations they stand for under `P0`. The frames are
R66's and R75's. That one table word numbers an `opsel` or a command byte, and that its operands are zero, is the
model's choice (assumption 10), and so is the profile `P0` (assumption 1). -/
def Obligations.TableWordsDecode : Prop :=
  decodeTableWord 8 0x01 = some (.evalpoly 0 0 [])
  ∧ decodeTableWord 8 0x80 = some .version
  ∧ decodeTableWord 8 0x86 = some (.commitPdef 0)
  ∧ decode .p0 (.frame [0x33#8, 0x32#8, 0x83#8]) = .ok (.chsel 32)
  ∧ decode .p0 (.frame [0x37#8, 0x8A#8]) = .ok (.readMisc 7)

/-- A data line, alone or at the head of the bytes received, parses to the values it was made of, with either
terminator (R62 to R64). -/
def Obligations.DataLinesParse : Prop :=
  ∀ (vs : List Nat) (rest : List Byte), vs ≠ [] →
    takeLine (dataLine vs ++ rest) = some (dataLine vs, rest)
    ∧ parseDataLine (dataLine vs) = some vs
    ∧ parseDataLine (commaSeparated vs ++ [0x0D#8, 0x0A#8]) = some vs

/-- An unassigned `opsel`, whatever its operands, is the illegal operation: it raises `IllegalOperation`,
computes nothing and changes nothing; an illegal frame is no error of the host but a refusal (R149). -/
def Obligations.UnassignedOpselIsIllegal : Prop :=
  (∀ (P : Profile) (opsel : Byte) (operands : List Value), opsel.toNat = 0 ∨ 0x0E ≤ opsel.toNat →
    decode P (.fn opsel operands) = .ok (.illegalFn opsel))
  ∧ (∀ (opsel : Byte) (s : State), Fails (.illegalFn opsel) s (.illegalOperation opsel))
  ∧ (∀ (d : List Byte) (l : Byte) (s : State), exec (.illegalFrame d l) s = .refused (.illegalFrame d l))

/-- `CHEN` and `REGDUMP` have frames and no meaning: the decoder knows them and the model refuses them
(R125, R128). -/
def Obligations.NamedOnlyCommandsRefused : Prop :=
  (∀ (P : Profile) (m : Word), P.WF → decode P (.frame (dec m.toNat ++ [P.cmd.chen])) = .ok (.chen m))
  ∧ (∀ P : Profile, P.WF → decode P (.frame [P.cmd.regdump]) = .ok .regdump)
  ∧ (∀ (m : Word) (s : State), exec (.chen m) s = .refused .channelEnableUnspecified)
  ∧ (∀ s : State, exec .regdump s = .refused .registerDumpUnspecified)

/-- The operations that have no step: a channel-scoped command with nothing selected, a channel-scoped
read under `all`, an address outside the used range, a command of the other revision, a selection that names no
channel (R49, R61, R75, R115 a and b), and every composite sequence that comes to such a command, its checks before
it passed. -/
def Obligations.RefusedCommands : Prop :=
  ∀ s : State,
    (s.chsel = none → ∀ (a : Addr) (w : Word48),
      ∀ i ∈ [Instr.commitPdef a, .commitWave a, .uwritePdef w, .uwriteWave w, .readPdef a, .readWave a],
        ∃ r, exec i s = .refused r)
    ∧ (s.chsel = some .all → ∀ a : Addr, ∀ i ∈ [Instr.readPdef a, .readWave a], ∃ r, exec i s = .refused r)
    ∧ (∀ a : Addr, 4 * s.profile.nSlots ≤ a.toNat →
        ∀ i ∈ [Instr.commitPdef a, .readPdef a], ∃ r, exec i s = .refused r)
    ∧ (∀ w : Word48, 4 * s.profile.nSlots ≤ w.toNat / 2 ^ 32 → ∃ r, exec (.uwritePdef w) s = .refused r)
    ∧ (∀ a : Addr, (∀ p, p < s.profile.waveRamCapacity / 2 → a.toNat ≠ waveRegAddr s.profile p) →
        ∀ i ∈ [Instr.commitWave a, .readWave a], ∃ r, exec i s = .refused r)
    ∧ (∀ w : Word48,
        (∀ p, p < s.profile.waveRamCapacity / 2 → w.toNat / 2 ^ 32 ≠ waveRegAddr s.profile p) →
        ∃ r, exec (.uwriteWave w) s = .refused r)
    ∧ (s.profile.protoRev = .unified → ∀ (a : Addr) (v : Word),
        ∀ i ∈ [Instr.stage v, .commitPdef a, .commitWave a, .commitDc a, .commitMisc a],
          exec i s = .refused (.illegalInRevision .unified))
    ∧ (s.profile.protoRev = .legacy → ∀ w : Word48,
        ∀ i ∈ [Instr.uwritePdef w, .uwriteWave w, .uwriteDc w, .uwriteMisc w],
          exec i s = .refused (.illegalInRevision .legacy))
    ∧ (∀ c, s.profile.cMaxChannels ≤ c → c ≠ s.profile.chAll → ∃ r, exec (.chsel c) s = .refused r)
    -- the composite sequences with nothing selected
    ∧ (s.chsel = none →
        (∀ a v : Nat, ∀ i ∈ [Instr.regwritePdef a v, .regwriteWave a v], ∃ r, exec i s = .refused r)
        ∧ (0 < s.profile.nSlots → ∃ r, exec .clearpdef s = .refused r)
        ∧ (2 ≤ s.profile.waveRamCapacity → ∃ r, exec .clearwave s = .refused r)
        ∧ (∀ (start : Nat) (samples : List Nat), samples ≠ [] → start % 2 = 0 →
            start + (samples.length + samples.length % 2) ≤ s.profile.waveRamCapacity →
            s.profile.strict = false ∨ (∀ v ∈ samples, v ≤ s.profile.smax) →
            ∃ r, exec (.writewave start samples false) s = .refused r)
        ∧ (∀ (w : WaveOperand) (st : Nat) (gain tf : Rat) (su e : Nat),
            (∃ t, exec (.encpdef e st w gain tf su) s = .next t ∧ t.response.error = none) →
            ∃ r, exec (.writepdef w st gain tf su (some e)) s = .refused r))
    -- the composite sequences that read, with nothing or all selected; `WRITEPDEF` whatever its operands
    ∧ (s.chsel = none ∨ s.chsel = some .all →
        (0 < s.profile.nSlots → ∃ r, exec .findslot s = .refused r)
        ∧ (∀ start length : Nat, 0 < length → start + length ≤ s.profile.waveRamCapacity →
            ∃ r, exec (.readwave start length) s = .refused r)
        ∧ (∀ (w : WaveOperand) (st : Nat) (gain tf : Rat) (su : Nat), 0 < s.profile.nSlots →
            ∃ r, exec (.writepdef w st gain tf su none) s = .refused r))
    -- a register write to an address outside the used range
    ∧ (∀ a v : Nat, 4 * s.profile.nSlots ≤ a % 2 ^ 16 → ∃ r, exec (.regwritePdef a v) s = .refused r)
    ∧ (∀ a v : Nat, (∀ p, p < s.profile.waveRamCapacity / 2 → a % 2 ^ 16 ≠ waveRegAddr s.profile p) →
        ∃ r, exec (.regwriteWave a v) s = .refused r)

/-! ### The polynomial evaluator -/

/-- `EVALPOLY` answers the sum of the coefficients times the increasing powers of `x` from power 1, over
`degree + 1`, scaled by `2^(ADDR_BITS-1)`, without flags (R80). -/
def Obligations.EvalpolySumsPowers : Prop :=
  ∀ (s : State) (degree : Nat) (x : Rat) (cs : List Rat), degree ≤ cs.length →
    Answers (.evalpoly degree x cs) s
      (.rational ((∑ k ∈ Finset.Icc 1 degree, cs.getD (k - 1) 0 * x ^ k) / ((degree : Rat) + 1)
        * 2 ^ (s.profile.addrBits - 1))) []

/-- The laws of `EVALPOLY`: linear in the coefficients; bounded for coefficients and argument in `[0, 1]`; the
linear case; and no dependence on the profile but through `ADDR_BITS` (R81). -/
def Obligations.EvalpolyLaws : Prop :=
  (∀ (P : Profile) (d : Nat) (x a b : Rat) (cs ds : List Rat), cs.length = ds.length →
    polyValue P d x (List.zipWith (fun c c' => a * c + b * c') cs ds)
      = a * polyValue P d x cs + b * polyValue P d x ds)
  ∧ (∀ (P : Profile) (d : Nat) (x : Rat) (cs : List Rat), d ≤ cs.length → 0 ≤ x → x ≤ 1 →
      (∀ c ∈ cs, 0 ≤ c ∧ c ≤ 1) →
      0 ≤ polyValue P d x cs
      ∧ polyValue P d x cs ≤ (d : Rat) / ((d : Rat) + 1) * 2 ^ (P.addrBits - 1)
      ∧ polyValue P d x cs < 2 ^ (P.addrBits - 1))
  ∧ (∀ (P : Profile) (x c : Rat) (cs : List Rat), P.WF →
      polyValue P 1 x (c :: cs) = c * x * 2 ^ (P.addrBits - 2))
  ∧ (∀ (P Q : Profile) (d : Nat) (x : Rat) (cs : List Rat), P.addrBits = Q.addrBits →
      evalPoly P d x cs = evalPoly Q d x cs)

/-- `PSHAPE` on its domain: the argument is `rel · timeFactor` in the rise, `riseTicks - 1` in the hold, the
mirrored rise in the fall and 0 elsewhere, each lower bound inclusive and each upper bound
exclusive; the answer is the polynomial at `x / riseTicks` times the gain (R82). -/
def Obligations.PshapeByRegion : Prop :=
  ∀ (s : State) (now start rise : Int) (tf : Rat) (hold : Int) (gain : Rat) (cs : List Rat),
    0 < rise → 0 < tf → 0 ≤ hold →
    ∀ (rel pw : Int), rel = now - start → pw = ⌈((rise : Rat) - 1) / tf⌉ →
    ∃ x : Rat,
      Answers (.pshape now start rise tf hold gain cs) s
        (.rational (polyValue s.profile cs.length (x / (rise : Rat)) cs * gain)) []
      ∧ (0 ≤ rel → rel < pw → x = (rel : Rat) * tf)
      ∧ (pw ≤ rel → rel < pw + hold → x = (rise : Rat) - 1)
      ∧ (pw + hold ≤ rel → rel < 2 * pw + hold - 1 →
          x = (2 * (pw : Rat) + (hold : Rat) - (rel : Rat) - 1) * tf)
      ∧ (rel < 0 ∨ (pw + hold ≤ rel ∧ 2 * pw + hold - 1 ≤ rel) → x = 0)

/-- Facts about the regions of a pulse: they are disjoint; the argument is non-zero only for `rel` in
`[1, 2·pw + h - 2]`; the rise stays below `r - 1`; the fall mirrors the rise; the gain only
multiplies the result (R83). -/
def Obligations.PulseRegionFacts : Prop :=
  ∀ (r h : Int) (f : Rat) (pw : Int), 0 < r → 0 < f → 0 ≤ h → pw = pulseWidth r f →
    (∀ rel, ¬ ((0 ≤ rel ∧ rel < pw) ∧ (pw ≤ rel ∧ rel < pw + h))
      ∧ ¬ ((0 ≤ rel ∧ rel < pw) ∧ (pw + h ≤ rel ∧ rel < 2 * pw + h - 1))
      ∧ ¬ ((pw ≤ rel ∧ rel < pw + h) ∧ (pw + h ≤ rel ∧ rel < 2 * pw + h - 1)))
    ∧ (∀ rel, pulseArg rel r h f ≠ 0 → 1 ≤ rel ∧ rel ≤ 2 * pw + h - 2)
    ∧ (∀ rel, 0 ≤ rel → rel < pw →
        pulseArg rel r h f = rel * f ∧ (rel : Rat) * f ≤ ((pw : Rat) - 1) * f
        ∧ ((pw : Rat) - 1) * f < (r : Rat) - 1)
    ∧ (∀ j, 0 ≤ j → j ≤ pw - 2 →
        pulseArg (pw + h + j) r h f = ((pw : Rat) - 1 - (j : Rat)) * f
        ∧ pulseArg (pw + h + j) r h f = pulseArg (pw - 1 - j) r h f)
    ∧ (∀ (P : Profile) (now start : Int) (gain : Rat) (cs : List Rat) (v v₁ : Rat),
        pulseShape P now start r f h gain cs = .ok v → pulseShape P now start r f h 1 cs = .ok v₁ →
        v = gain * v₁)

/-- The jump of the argument at a boundary is never more than the regular step `f`: between the last rise tick
and the first hold tick it is `(r-1) - (pw-1)·f`, in `(0, f]`, and it jumps back by the same amount; with no
hold the rise and the fall meet; inside them it moves by `f` a tick (R84). -/
def Obligations.PulseBoundaryJump : Prop :=
  ∀ (r h : Int) (f : Rat) (pw : Int), 0 < r → 0 < f → 0 ≤ h → pw = pulseWidth r f → 1 ≤ pw →
    pulseArg (pw - 1) r h f = ((pw : Rat) - 1) * f
    ∧ 0 < ((r : Rat) - 1) - ((pw : Rat) - 1) * f
    ∧ ((r : Rat) - 1) - ((pw : Rat) - 1) * f ≤ f
    ∧ (1 ≤ h → pulseArg pw r h f = (r : Rat) - 1 ∧ pulseArg (pw + h - 1) r h f = (r : Rat) - 1
        ∧ pulseArg (pw + h) r h f = ((pw : Rat) - 1) * f)
    ∧ (h = 0 → pulseArg pw r h f = pulseArg (pw - 1) r h f)
    ∧ (∀ rel, 0 ≤ rel → rel + 1 < pw → pulseArg (rel + 1) r h f - pulseArg rel r h f = f)
    ∧ (∀ rel, pw + h ≤ rel → rel + 1 < 2 * pw + h - 1 →
        pulseArg rel r h f - pulseArg (rel + 1) r h f = f)

/-! ### Quantization -/

/-- `SYNTH` answers one sample for each `i` below `L`, the polynomial at `i/L` truncated with negatives
clamped to 0, a trailing 0 when `L` is odd, and one `SAMPLE_OVERFLOW` flag for each sample above
`SMAX`, which is kept (R90). -/
def Obligations.SynthSamples : Prop :=
  ∀ (s : State) (L : Nat) (cs : List Rat), ∃ (samples : List Nat) (flags : List Warning),
    Answers (.synth L cs) s (.naturals samples) flags
    ∧ samples.length = L + L % 2
    ∧ (∀ i, i < L →
        ((samples.getD i 0 : Nat) : Int) = max 0 ⌊polyValue s.profile cs.length ((i : Rat) / (L : Rat)) cs⌋)
    ∧ (L % 2 = 1 → samples[L]? = some 0)
    ∧ (∀ w, w ∈ flags ↔
        ∃ i, i < L ∧ s.profile.smax < samples.getD i 0
          ∧ w = .sampleOverflow i (samples.getD i 0) s.profile.smax)

/-- The laws of `SYNTH`: an even number of samples; below half the range and no flag for coefficients in
`[0, 1]`; no dependence on the state or on any profile field but `ADDR_BITS`; no check of the
capacity (R91). -/
def Obligations.SynthLaws : Prop :=
  (∀ (P : Profile) (L : Nat) (cs : List Rat), (synthTable P L cs).1.length % 2 = 0)
  ∧ (∀ (P : Profile) (L : Nat) (cs : List Rat), P.WF → (∀ c ∈ cs, 0 ≤ c ∧ c ≤ 1) →
      (∀ v ∈ (synthTable P L cs).1, 0 ≤ v ∧ v < 2 ^ (P.addrBits - 1)) ∧ (synthTable P L cs).2 = [])
  ∧ (∀ (s s' : State) (L : Nat) (cs : List Rat), s.profile.addrBits = s'.profile.addrBits →
      ∃ t t', exec (.synth L cs) s = .next t ∧ exec (.synth L cs) s' = .next t'
        ∧ t.response = t'.response ∧ t.response.error = none)

/-- `V2DAC` with a positive reference: the voltage clamped to the range of the mode, in steps of the range
over `2^DAC_BITS_RES`, the code clamped to its largest value; a flag for each voltage clamp and none for
the code clamp (R92). -/
def Obligations.V2dacConverts : Prop :=
  ∀ (s : State) (v ref : Rat) (m : RefMode) (range : Rat), 0 < ref →
    (m = .internal → range = 2 * ref) → (m = .external → range = ref) →
    ∃ (n : Nat) (flags : List Warning),
      Answers (.v2dac v ref m) s (.natural n) flags
      ∧ (n : Int) = min ⌊max 0 (min v range) * 2 ^ s.profile.dacBitsRes / range⌋
          (2 ^ s.profile.dacBitsRes - 1)
      ∧ (∀ w, w ∈ flags ↔ (v < 0 ∧ w = .vClampLo v 0) ∨ (range < v ∧ w = .vClampHi v range))

/-- Corner cases of `V2DAC`: full scale and everything above give the largest code, zero and everything below
give 0, the reference itself in internal mode gives half scale, and the code is monotone in the
voltage (R92). -/
def Obligations.V2dacMonotone : Prop :=
  ∀ (P : Profile) (range : Rat), P.WF → 0 < range →
    (∀ v, range ≤ v → dacCode P (clampVoltage v range) range = 2 ^ P.dacBitsRes - 1)
    ∧ (∀ v, v ≤ 0 → dacCode P (clampVoltage v range) range = 0)
    ∧ dacCode P (clampVoltage (range / 2) range) range = 2 ^ (P.dacBitsRes - 1)
    ∧ (∀ v v', v ≤ v' →
        dacCode P (clampVoltage v range) range ≤ dacCode P (clampVoltage v' range) range)

/-- `round` gives the nearest integer, and at an exact half the even one or the one away from zero, by
`ROUND_TIE` (R12). -/
def Obligations.RoundIsNearest : Prop :=
  (∀ (tie : RoundTie) (q : Rat), |q - (roundQ tie q : Rat)| ≤ 1 / 2)
  ∧ (∀ (tie : RoundTie) (q : Rat) (n : Int), |q - (n : Rat)| < 1 / 2 → roundQ tie q = n)
  ∧ (∀ n : Int, roundQ .halfEven ((n : Rat) + 1 / 2) = if n % 2 = 0 then n else n + 1)
  ∧ (∀ n : Int, roundQ .halfAway ((n : Rat) + 1 / 2) = if 0 ≤ n then n + 1 else n)

/-- `PACKPAIR` answers `((hi << ADDR_BITS) | lo) & 0xFFFFFFFF`, with `lo` the first sample under
`even_low` and the second under `even_high`. A sample above `SMAX` is a flag without `STRICT`; with it the
first such sample is the error (R93). -/
def Obligations.PackpairPacks : Prop :=
  ∀ (s : State) (first second lo hi : Nat),
    (s.profile.pairOrder = .evenLow → lo = first ∧ hi = second) →
    (s.profile.pairOrder = .evenHigh → lo = second ∧ hi = first) →
    (s.profile.strict = false ∨ (first ≤ s.profile.smax ∧ second ≤ s.profile.smax) →
      ∃ (w : Word) (flags : List Warning),
        Answers (.packpair first second) s (.word w) flags
        ∧ w.toNat = ((hi <<< s.profile.addrBits) ||| lo) % 2 ^ 32
        ∧ (∀ x, x ∈ flags ↔ ∃ v : Nat, (v = first ∨ v = second) ∧ s.profile.smax < v
            ∧ x = .outOfRange .sample v s.profile.smax))
    ∧ (s.profile.strict = true → s.profile.smax < first →
        Fails (.packpair first second) s (.outOfRange .sample first s.profile.smax))
    ∧ (s.profile.strict = true → first ≤ s.profile.smax → s.profile.smax < second →
        Fails (.packpair first second) s (.outOfRange .sample second s.profile.smax))

/-- `UNPACKPAIR` answers the two `ADDR_BITS`-wide fields in sample order and inverts `PACKPAIR` on samples
that fit (R94). -/
def Obligations.UnpackpairInverts : Prop :=
  (∀ (P : Profile) (w : Word), decode P (.fn 0x06#8 [.word w]) = .ok (.unpackpair w))
  ∧ (∀ (s : State) (w : Word) (lo hi : Nat), s.profile.WF →
      lo = w.toNat % 2 ^ s.profile.addrBits →
      hi = w.toNat / 2 ^ s.profile.addrBits % 2 ^ s.profile.addrBits →
      (s.profile.pairOrder = .evenLow → Answers (.unpackpair w) s (.pair lo hi) [])
      ∧ (s.profile.pairOrder = .evenHigh → Answers (.unpackpair w) s (.pair hi lo) []))
  ∧ (∀ (P : Profile) (a b : Nat), P.WF → a ≤ P.smax → b ≤ P.smax →
      unpairWord P (pairWord P a b) = (a, b))
  ∧ unpairWord .p0 0x1990CC#32 = (204, 409)

/-- `PACKTABLE` pads to even length, answers one word for each pair in order, with the flags of every
out-of-range sample; on samples that fit, unpacking the words gives the padded table back; under `STRICT` the
first out-of-range sample in list order is the error (R95, R143). -/
def Obligations.PacktableUnpacks : Prop :=
  (∀ (P : Profile) (samples : List Nat), decode P (.fn 0x07#8 [.nats samples]) = .ok (.packtable samples))
  ∧ ∀ (s : State) (samples : List Nat), s.profile.WF →
    (s.profile.strict = false ∨ (∀ v ∈ samples, v ≤ s.profile.smax) →
      ∃ (words : List Word) (flags : List Warning),
        Answers (.packtable samples) s (.words words) flags
        ∧ words.length = (samples.length + 1) / 2
        ∧ (∀ k, k < words.length →
            words[k]? = some (pairWord s.profile (samples.getD (2 * k) 0) (samples.getD (2 * k + 1) 0)))
        ∧ (∀ x, x ∈ flags ↔ ∃ v ∈ samples, s.profile.smax < v ∧ x = .outOfRange .sample v s.profile.smax)
        ∧ ((∀ v ∈ samples, v ≤ s.profile.smax) →
            words.flatMap (fun w => [(unpairWord s.profile w).1, (unpairWord s.profile w).2])
              = if samples.length % 2 = 1 then samples ++ [0] else samples))
    ∧ (∀ (before after : List Nat) (v : Nat), s.profile.strict = true → samples = before ++ v :: after →
        (∀ u ∈ before, u ≤ s.profile.smax) → s.profile.smax < v →
        Fails (.packtable samples) s (.outOfRange .sample v s.profile.smax))

/-! ### The pulse-config codec -/

/-- `MKWAVEID` puts the length in bits 31..16 and the start address in bits 15..0, whatever they are, flags a
half that does not fit (or fails on it under `STRICT`), and `UNWAVEID` takes them apart and
inverts it (R100, R108). -/
def Obligations.WaveIdPacksAndUnpacks : Prop :=
  (∀ (P : Profile) (l a : Nat), decode P (.fn 0x08#8 [.nat l, .nat a]) = .ok (.mkwaveid l a))
  ∧ (∀ (P : Profile) (w : Word), decode P (.fn 0x09#8 [.word w]) = .ok (.unwaveid w))
  ∧ (∀ (s : State) (l a : Nat), s.profile.strict = false ∨ (l ≤ 0xFFFF ∧ a ≤ 0xFFFF) →
      ∃ (w : Word) (flags : List Warning),
        Answers (.mkwaveid l a) s (.word w) flags
        ∧ w.toNat = l % 2 ^ 16 * 2 ^ 16 + a % 2 ^ 16
        ∧ (∀ x, x ∈ flags ↔ (0xFFFF < l ∧ x = .outOfRange .waveLen l 0xFFFF)
            ∨ (0xFFFF < a ∧ x = .outOfRange .waveAddr a 0xFFFF)))
  ∧ (∀ (s : State) (l a : Nat), s.profile.strict = true → 0xFFFF < l →
      Fails (.mkwaveid l a) s (.outOfRange .waveLen l 0xFFFF))
  ∧ (∀ (s : State) (l a : Nat), s.profile.strict = true → l ≤ 0xFFFF → 0xFFFF < a →
      Fails (.mkwaveid l a) s (.outOfRange .waveAddr a 0xFFFF))
  ∧ (∀ (s : State) (w : Word),
      Answers (.unwaveid w) s (.pair (w.toNat / 2 ^ 16) (w.toNat % 2 ^ 16)) [])
  ∧ (∀ l a : Nat, l ≤ 0xFFFF → a ≤ 0xFFFF → unpackWaveId (packWaveId l a) = (l, a))
  ∧ packWaveId 1 0 = 0x00010000#32 ∧ packWaveId 64 256 = 0x00400100#32
  ∧ unpackWaveId 0x00010000#32 = (1, 0)

/-- The entry-0 substitution: at entry 0 a start time below `PULSE_START_MIN` is encoded as `PULSE_START_MIN`,
at any other entry it is encoded as given, and no flag or error comes of it (R101). The third clause speaks of the
start time before it is masked. That register `START` holds the start time after the substitution mod `2^24`, so that
without `STRICT` a start time of `2^24` or more at entry 0 can leave a value below `PULSE_START_MIN`, is the pseudocode
of R102 over R26's words: the model's choice (assumption 26). -/
def Obligations.StartSubstitutedAtEntryZero : Prop :=
  (∀ (P : Profile) (st : Nat), st < P.pulseStartMin → substStart P 0 st = P.pulseStartMin)
  ∧ (∀ (P : Profile) (e st : Nat), e ≠ 0 ∨ P.pulseStartMin ≤ st → substStart P e st = st)
  ∧ (∀ (P : Profile) (st : Nat), P.pulseStartMin ≤ substStart P 0 st)
  ∧ (∀ (s : State) (st : Nat) (w : WaveOperand) (g f : Rat) (su : Nat), st < s.profile.pulseStartMin →
      (∀ t, exec (.encpdef 0 st w g f su) s = .next t ↔
        exec (.encpdef 0 s.profile.pulseStartMin w g f su) s = .next t))
  ∧ (∀ (s t : State) (e st : Nat) (w : WaveOperand) (g f : Rat) (su a : Nat) (r0 : Word)
      (rest : List (Nat × Word)), exec (.encpdef e st w g f su) s = .next t →
      t.response.result = some (.writes ((a, r0) :: rest)) →
      r0.toNat = substStart s.profile e st % 2 ^ 24)
  ∧ Answers (.encpdef 0 3 (.id 0x00010000) 1 1 0) State.reset
      (.writes [(0, 0x4#32), (1, 0x00010000#32), (2, 0x80000100#32), (3, 0x0#32)]) []

/-- `ENCPDEF` on an existing entry with the right form of `wave`: four register writes at offsets `4·entry` to
`4·entry + 3`, each field the masked operand, and the flags of the table of R103 (R102, R103). That `START` is masked
after the substitution at entry 0 too, where R26 says that the encoder never writes a value below `PULSE_START_MIN`, is
the model's choice (assumption 26). -/
def Obligations.EncpdefRegisters : Prop :=
  ∀ (s : State) (e st : Nat) (w : WaveOperand) (gain tf : Rat) (su : Nat) (g t : Int) (st' : Nat),
    e < s.profile.nSlots → waveFits s.profile.waveFieldMode w = true →
    g = roundQ s.profile.roundTie (gain * 2 ^ (s.profile.gainBits - 1)) →
    t = roundQ s.profile.roundTie (tf * 2 ^ s.profile.fracBits) →
    st' = (if e = 0 ∧ st < s.profile.pulseStartMin then s.profile.pulseStartMin else st) →
    (s.profile.strict = false ∨
      (st' ≤ 0xFFFFFF ∧ (∀ id, w = .id id → id ≤ 0xFFFFFFFF)
        ∧ (∀ wa wl, w = .addrLen wa wl → wl ≤ 0xFFF ∧ wa ≤ 0xFFF)
        ∧ 0 ≤ g ∧ g ≤ 0xFFFF ∧ 0 ≤ t ∧ t ≤ 0xFFFF ∧ su ≤ 0x1FFFF)) →
    ∃ (r0 r1 r2 r3 : Word) (flags : List Warning),
      Answers (.encpdef e st w gain tf su) s
        (.writes [(4 * e, r0), (4 * e + 1, r1), (4 * e + 2, r2), (4 * e + 3, r3)]) flags
      ∧ r0.toNat = st' % 2 ^ 24
      ∧ (∀ id, w = .id id → r1.toNat = id % 2 ^ 32)
      ∧ (∀ wa wl, w = .addrLen wa wl → r1.toNat = wl % 2 ^ 12 * 2 ^ 16 + wa % 2 ^ 12)
      ∧ (r2.toNat : Int) = g % 2 ^ 16 * 2 ^ 16 + t % 2 ^ 16
      ∧ r3.toNat = su % 2 ^ 17
      ∧ (∀ x, x ∈ flags ↔
          (0xFFFFFF < st' ∧ x = .outOfRange .start st' 0xFFFFFF)
          ∨ (∃ id, w = .id id ∧ 0xFFFFFFFF < id ∧ x = .outOfRange .waveId id 0xFFFFFFFF)
          ∨ (∃ wa wl, w = .addrLen wa wl ∧ 0xFFF < wl ∧ x = .outOfRange .waveLen wl 0xFFF)
          ∨ (∃ wa wl, w = .addrLen wa wl ∧ 0xFFF < wa ∧ x = .outOfRange .waveAddr wa 0xFFF)
          ∨ (¬ (0 ≤ g ∧ g ≤ 0xFFFF)
              ∧ x = .outOfRange .gain gain (0xFFFF / 2 ^ (s.profile.gainBits - 1)))
          ∨ (¬ (0 ≤ t ∧ t ≤ 0xFFFF) ∧ x = .outOfRange .timeFactor tf (0xFFFF / 2 ^ s.profile.fracBits))
          ∨ (0x1FFFF < su ∧ x = .outOfRange .sustain su 0x1FFFF))

/-- Under `STRICT` the first failing check, in the order of the table of R103, is the error of `ENCPDEF`, and
nothing is returned (R103, R143). -/
def Obligations.EncpdefStrictFirstField : Prop :=
  ∀ (s : State) (e st : Nat) (w : WaveOperand) (gain tf : Rat) (su : Nat),
    s.profile.strict = true → e < s.profile.nSlots → waveFits s.profile.waveFieldMode w = true →
    (0xFFFFFF < substStart s.profile e st →
      Fails (.encpdef e st w gain tf su) s (.outOfRange .start (substStart s.profile e st) 0xFFFFFF))
    ∧ (substStart s.profile e st ≤ 0xFFFFFF → ∀ id, w = .id id → 0xFFFFFFFF < id →
        Fails (.encpdef e st w gain tf su) s (.outOfRange .waveId id 0xFFFFFFFF))
    ∧ (substStart s.profile e st ≤ 0xFFFFFF → ∀ wa wl, w = .addrLen wa wl → 0xFFF < wl →
        Fails (.encpdef e st w gain tf su) s (.outOfRange .waveLen wl 0xFFF))
    ∧ (substStart s.profile e st ≤ 0xFFFFFF → ∀ wa wl, w = .addrLen wa wl → wl ≤ 0xFFF → 0xFFF < wa →
        Fails (.encpdef e st w gain tf su) s (.outOfRange .waveAddr wa 0xFFF))
    ∧ (substStart s.profile e st ≤ 0xFFFFFF → (∀ id, w = .id id → id ≤ 0xFFFFFFFF) →
        (∀ wa wl, w = .addrLen wa wl → wl ≤ 0xFFF ∧ wa ≤ 0xFFF) →
        (fits16 (scaleGain s.profile gain) = false →
          Fails (.encpdef e st w gain tf su) s
            (.outOfRange .gain gain (0xFFFF / 2 ^ (s.profile.gainBits - 1))))
        ∧ (fits16 (scaleGain s.profile gain) = true → fits16 (scaleTime s.profile tf) = false →
            Fails (.encpdef e st w gain tf su) s
              (.outOfRange .timeFactor tf (0xFFFF / 2 ^ s.profile.fracBits)))
        ∧ (fits16 (scaleGain s.profile gain) = true → fits16 (scaleTime s.profile tf) = true →
            0x1FFFF < su →
            Fails (.encpdef e st w gain tf su) s (.outOfRange .sustain su 0x1FFFF)))

/-- `DECPDEF` is total: the all-zero quadruple is the empty slot sentinel, every other quadruple gives its
fields, the gain over `2^(GAIN_BITS-1)` and the time factor over `2^FRAC_BITS` (R104). -/
def Obligations.DecpdefFields : Prop :=
  (∀ (P : Profile) (r0 r1 r2 r3 : Word),
    decode P (.fn 0x0B#8 [.word r0, .word r1, .word r2, .word r3]) = .ok (.decpdef r0 r1 r2 r3))
  ∧ ∀ (s : State) (r0 r1 r2 r3 : Word),
    ((r0.toNat = 0 ∧ r1.toNat = 0 ∧ r2.toNat = 0 ∧ r3.toNat = 0) →
      Answers (.decpdef r0 r1 r2 r3) s .empty [])
    ∧ (¬ (r0.toNat = 0 ∧ r1.toNat = 0 ∧ r2.toNat = 0 ∧ r3.toNat = 0) →
        ∀ w : WaveOperand,
          (s.profile.waveFieldMode = .waveId → w = .id r1.toNat) →
          (s.profile.waveFieldMode = .addrLen →
            w = .addrLen (r1.toNat % 2 ^ 12) (r1.toNat / 2 ^ 16 % 2 ^ 12)) →
          Answers (.decpdef r0 r1 r2 r3) s
            (.pulse ⟨r0.toNat % 2 ^ 24, w, ((r2.toNat / 2 ^ 16 : Nat) : Rat) / 2 ^ (s.profile.gainBits - 1),
              ((r2.toNat % 2 ^ 16 : Nat) : Rat) / 2 ^ s.profile.fracBits, r3.toNat % 2 ^ 17⟩) [])

/-- The round trip of a pulse definition whose encoding raised no flag and is not all zero: the wave and the
sustain come back exactly, the start time after the substitution, the gain within `2^-GAIN_BITS` and the
time factor within `2^-(FRAC_BITS+1)`; so both within `2^-FRAC_BITS` where `GAIN_BITS >= FRAC_BITS` (R105). -/
def Obligations.PulseRoundTrip : Prop :=
  ∀ (s t : State) (e st : Nat) (w : WaveOperand) (gain tf : Rat) (su : Nat) (r0 r1 r2 r3 : Word),
    s.profile.WF →
    exec (.encpdef e st w gain tf su) s = .next t →
    t.response.result = some (.writes [(4 * e, r0), (4 * e + 1, r1), (4 * e + 2, r2), (4 * e + 3, r3)]) →
    t.response.warnings = [] → ¬ (r0 = 0 ∧ r1 = 0 ∧ r2 = 0 ∧ r3 = 0) →
    ∃ c : PulseConfig,
      Answers (.decpdef r0 r1 r2 r3) t (.pulse c) []
      ∧ c.wave = w ∧ c.sustain = su
      ∧ c.startTime = (if e = 0 ∧ st < s.profile.pulseStartMin then s.profile.pulseStartMin else st)
      ∧ |c.scaleGain - gain| ≤ 1 / 2 ^ s.profile.gainBits
      ∧ |c.scaleAddr - tf| ≤ 1 / 2 ^ (s.profile.fracBits + 1)
      ∧ (s.profile.fracBits ≤ s.profile.gainBits →
          |c.scaleGain - gain| ≤ 1 / 2 ^ s.profile.fracBits ∧ |c.scaleAddr - tf| ≤ 1 / 2 ^ s.profile.fracBits)

/-- `ENCW` for each of the four write selectors: one frame of the packed word under `unified`; the value frame
and then the address frame under `legacy`, both masked; the frames decode to the commands they stand for
(R106). -/
def Obligations.EncwFrames : Prop :=
  ∀ (s : State) (a v : Nat) (b : Byte) (commit : Addr → Instr) (uwrite : Word48 → Instr), s.profile.WF →
    (b, commit, uwrite) ∈
      [(s.profile.cmd.pdefWr, Instr.commitPdef, Instr.uwritePdef),
       (s.profile.cmd.waveWr, Instr.commitWave, Instr.uwriteWave),
       (s.profile.cmd.dcWr, Instr.commitDc, Instr.uwriteDc),
       (s.profile.cmd.miscWr, Instr.commitMisc, Instr.uwriteMisc)] →
    (s.profile.protoRev = .unified →
      Answers (.encw a v b) s (.frames [dec (a % 2 ^ 16 * 2 ^ 32 + v % 2 ^ 32) ++ [b]]) []
      ∧ decodeLink s.profile (dec (a % 2 ^ 16 * 2 ^ 32 + v % 2 ^ 32) ++ [b])
          = ([uwrite (BitVec.ofNat 48 (a % 2 ^ 16 * 2 ^ 32 + v % 2 ^ 32))], .tail []))
    ∧ (s.profile.protoRev = .legacy →
        Answers (.encw a v b) s
          (.frames [dec (v % 2 ^ 32) ++ [s.profile.cmd.dataset], dec (a % 2 ^ 16) ++ [b]]) []
        ∧ decodeLink s.profile (dec (v % 2 ^ 32) ++ [s.profile.cmd.dataset] ++ (dec (a % 2 ^ 16) ++ [b]))
            = ([.stage (BitVec.ofNat 32 v), commit (BitVec.ofNat 16 a)], .tail []))

/-- `DECCHERR` reports channel `C_MAX_CHANNELS - 1 - j` for each set bit `j` of each mask, in mapping order and, within
an entry, bits ascending, so channels descending; a mask with a bit that has no channel is an error; bit 0 is the
last channel (R107). It speaks of every list of pairs; that `DECCHERR` decodes a list other than one pair for each kind
of `ERR_KINDS` in that order alike is the model's choice (assumption 30). -/
def Obligations.DeccherrReversesBits : Prop :=
  (∀ (s : State) (m : List (String × Word)),
    (∀ km ∈ m, km.2.toNat < 2 ^ s.profile.cMaxChannels) →
    ∃ rs : List (String × Nat),
      Answers (.deccherr m) s (.reports rs) []
      ∧ rs = (m.flatMap fun km =>
          ((List.range s.profile.cMaxChannels).filter fun j => km.2.toNat.testBit j).map fun j =>
            (km.1, s.profile.cMaxChannels - 1 - j))
      ∧ (∀ k ch, (k, ch) ∈ rs ↔ ch < s.profile.cMaxChannels ∧
          ∃ mask, (k, mask) ∈ m ∧ mask.toNat.testBit (s.profile.cMaxChannels - 1 - ch) = true)
      ∧ rs.length = (m.map fun km =>
          (List.range s.profile.cMaxChannels).countP fun j => km.2.toNat.testBit j).sum
      ∧ (∀ k mask, m = [(k, mask)] → rs.Pairwise fun x y => y.2 < x.2))
  ∧ (∀ (s : State) (before after : List (String × Word)) (k : String) (mask : Word),
      (∀ km ∈ before, km.2.toNat < 2 ^ s.profile.cMaxChannels) →
      2 ^ s.profile.cMaxChannels ≤ mask.toNat →
      Fails (.deccherr (before ++ (k, mask) :: after)) s
        (.badOperand .mask (.num mask.toNat) (.atMost (2 ^ s.profile.cMaxChannels - 1))))
  ∧ (∀ s : State, s.profile.cMaxChannels = 32 →
      Answers (.deccherr [("X", 0x00000001#32)]) s (.reports [("X", 31)]) []
      ∧ Answers (.deccherr [("X", 0x80000001#32)]) s (.reports [("X", 31), ("X", 0)]) [])

/-- `BadOperand`: where an operand lies outside the domain of a function operation, the operation returns
nothing and changes nothing (R145). For `ENCPDEF` the entry exists (assumption 12); the mask of `DECCHERR` may stand
first in any list (assumption 30). What the errors of `ENCPDEF` and `ENCW` record beside the operand, where R102 and
R106 write dots, is the model's choice (assumption 31). -/
def Obligations.FunctionDomainErrors : Prop :=
  ∀ s : State,
    (∀ (d : Nat) (x : Rat) (cs : List Rat), cs.length < d →
      Fails (.evalpoly d x cs) s (.badOperand .degree (.num d) (.atMost cs.length)))
    ∧ (∀ (now start rise : Int) (tf : Rat) (hold : Int) (gain : Rat) (cs : List Rat),
        (rise ≤ 0 → Fails (.pshape now start rise tf hold gain cs) s
          (.badOperand .riseTicks (.num rise) .positive))
        ∧ (0 < rise → tf ≤ 0 → Fails (.pshape now start rise tf hold gain cs) s
            (.badOperand .timeFactor (.num tf) .positive))
        ∧ (0 < rise → 0 < tf → hold < 0 → Fails (.pshape now start rise tf hold gain cs) s
            (.badOperand .holdTicks (.num hold) .nonNegative)))
    ∧ (∀ (v ref : Rat) (m : RefMode), ref ≤ 0 →
        Fails (.v2dac v ref m) s (.badOperand .referenceVoltage (.num ref) .positive))
    ∧ (∀ (e st : Nat) (w : WaveOperand) (gain tf : Rat) (su : Nat), e < s.profile.nSlots →
        waveFits s.profile.waveFieldMode w = false →
        Fails (.encpdef e st w gain tf su) s
          (.badOperand .wave (.wave w) (.waveForm s.profile.waveFieldMode)))
    ∧ (∀ (a v : Nat) (b : Byte), b ≠ s.profile.cmd.pdefWr → b ≠ s.profile.cmd.waveWr →
        b ≠ s.profile.cmd.dcWr → b ≠ s.profile.cmd.miscWr →
        Fails (.encw a v b) s (.badOperand .commandByte (.num b.toNat) (.oneOf
          [s.profile.cmd.pdefWr, s.profile.cmd.waveWr, s.profile.cmd.dcWr, s.profile.cmd.miscWr])))
    ∧ (∀ (k : String) (mask : Word) (rest : List (String × Word)), 2 ^ s.profile.cMaxChannels ≤ mask.toNat →
        Fails (.deccherr ((k, mask) :: rest)) s
          (.badOperand .mask (.num mask.toNat) (.atMost (2 ^ s.profile.cMaxChannels - 1))))

/-! ### Device commands -/

/-- `STAGE` under `legacy` leaves its value staged, replacing what was, and changes nothing else (R116). -/
def Obligations.StageHoldsValue : Prop :=
  ∀ (s : State) (v : Word), s.profile.protoRev = .legacy →
    ∃ t, exec (.stage v) s = .next t
      ∧ Exchanged s t .done (dec v.toNat ++ [s.profile.cmd.dataset]) []
      ∧ t.staged = some v ∧ t.chsel = s.chsel ∧ SameContexts s t ∧ SameCommon s t

/-- `COMMIT.PDEF` writes the staged value, or some value when nothing is staged, to the register of every
channel reached, whole, or its field bits alone where `PDEF_KEEP_UNUSED` is false; it consumes the value and leaves
every other register and sample (R26 to R30, R33, R115, R117). -/
def Obligations.CommitPdefWrites : Prop :=
  ∀ (s : State) (a : Addr), s.profile.protoRev = .legacy → a.toNat < 4 * s.profile.nSlots →
    s.chsel ≠ none →
    ∃ t v, exec (.commitPdef a) s = .next t
      ∧ (∀ u, s.staged = some u → v = u)
      ∧ Exchanged s t .done (dec a.toNat ++ [s.profile.cmd.pdefWr]) []
      ∧ (∀ ch, Reached s ch → RegisterHolds s.profile a.toNat v (t.pdefAt ch a.toNat))
      ∧ (∀ ch b, ¬ (Reached s ch ∧ b = a.toNat) → t.pdefAt ch b = s.pdefAt ch b)
      ∧ (∀ ch b, t.sampleAt ch b = s.sampleAt ch b)
      ∧ SameCommon s t ∧ t.staged = none ∧ t.chsel = s.chsel

/-- `COMMIT.WAVE` at the register address of pair `p` writes the two fields of the staged value, or of some
value when nothing is staged, to samples `2p` and `2p + 1` of every channel reached (R33, R115, R118). -/
def Obligations.CommitWaveWrites : Prop :=
  ∀ (s : State) (a : Addr) (p : Nat), s.profile.protoRev = .legacy →
    p < s.profile.waveRamCapacity / 2 → a.toNat = waveRegAddr s.profile p → s.chsel ≠ none →
    ∃ t v, exec (.commitWave a) s = .next t
      ∧ (∀ u, s.staged = some u → v = u)
      ∧ Exchanged s t .done (dec a.toNat ++ [s.profile.cmd.waveWr]) []
      ∧ (∀ ch, Reached s ch →
          t.sampleAt ch (2 * p) = (unpairWord s.profile v).1
          ∧ t.sampleAt ch (2 * p + 1) = (unpairWord s.profile v).2)
      ∧ (∀ ch b, ¬ (Reached s ch ∧ (b = 2 * p ∨ b = 2 * p + 1)) → t.sampleAt ch b = s.sampleAt ch b)
      ∧ (∀ ch b, t.pdefAt ch b = s.pdefAt ch b)
      ∧ SameCommon s t ∧ t.staged = none ∧ t.chsel = s.chsel

/-- `COMMIT.DC` and `COMMIT.MISC` write the staged value, or some value when nothing is staged, whatever is
selected, and consume it (R33, R119, R120). -/
def Obligations.CommitCommonWrites : Prop :=
  ∀ (s : State) (a : Addr), s.profile.protoRev = .legacy →
    (∃ t v, exec (.commitDc a) s = .next t
      ∧ (∀ u, s.staged = some u → v = u)
      ∧ Exchanged s t .done (dec a.toNat ++ [s.profile.cmd.dcWr]) []
      ∧ t.dcAt a.toNat = v ∧ (∀ b, b ≠ a.toNat → t.dcAt b = s.dcAt b)
      ∧ (∀ b, t.miscAt b = s.miscAt b) ∧ SameContexts s t ∧ t.staged = none ∧ t.chsel = s.chsel)
    ∧ (∃ t v, exec (.commitMisc a) s = .next t
      ∧ (∀ u, s.staged = some u → v = u)
      ∧ Exchanged s t .done (dec a.toNat ++ [s.profile.cmd.miscWr]) []
      ∧ t.miscAt a.toNat = v ∧ (∀ b, b ≠ a.toNat → t.miscAt b = s.miscAt b)
      ∧ (∀ b, t.dcAt b = s.dcAt b) ∧ SameContexts s t ∧ t.staged = none ∧ t.chsel = s.chsel)

/-- `UWRITE.PDEF` and `UWRITE.WAVE` under `unified`: the address is bits 47..32 and the value bits 31..0 of the
word, of which a pulse-definition register holds every bit or its field bits (R26 to R30); `STAGED` is neither read
nor written (R139, R176). -/
def Obligations.UwriteContexts : Prop :=
  ∀ (s : State) (w : Word48) (a : Nat) (v : Word), s.profile.protoRev = .unified → s.chsel ≠ none →
    a = w.toNat / 2 ^ 32 → v = BitVec.ofNat 32 w.toNat →
    (a < 4 * s.profile.nSlots →
      ∃ t, exec (.uwritePdef w) s = .next t
        ∧ Exchanged s t .done (dec w.toNat ++ [s.profile.cmd.pdefWr]) []
        ∧ (∀ ch, Reached s ch → RegisterHolds s.profile a v (t.pdefAt ch a))
        ∧ (∀ ch b, ¬ (Reached s ch ∧ b = a) → t.pdefAt ch b = s.pdefAt ch b)
        ∧ (∀ ch b, t.sampleAt ch b = s.sampleAt ch b)
        ∧ SameCommon s t ∧ t.staged = s.staged ∧ t.chsel = s.chsel)
    ∧ (∀ p, p < s.profile.waveRamCapacity / 2 → a = waveRegAddr s.profile p →
        ∃ t, exec (.uwriteWave w) s = .next t
          ∧ Exchanged s t .done (dec w.toNat ++ [s.profile.cmd.waveWr]) []
          ∧ (∀ ch, Reached s ch →
              t.sampleAt ch (2 * p) = (unpairWord s.profile v).1
              ∧ t.sampleAt ch (2 * p + 1) = (unpairWord s.profile v).2)
          ∧ (∀ ch b, ¬ (Reached s ch ∧ (b = 2 * p ∨ b = 2 * p + 1)) →
              t.sampleAt ch b = s.sampleAt ch b)
          ∧ (∀ ch b, t.pdefAt ch b = s.pdefAt ch b)
          ∧ SameCommon s t ∧ t.staged = s.staged ∧ t.chsel = s.chsel)

/-- `UWRITE.DC` and `UWRITE.MISC`: the frames, legal only under `unified`, and the one register written
(R177, R178). -/
def Obligations.UwriteCommon : Prop :=
  (∀ (P : Profile) (w : Word48), P.WF → P.protoRev = .unified →
    decode P (.frame (dec w.toNat ++ [P.cmd.dcWr])) = .ok (.uwriteDc w)
    ∧ decode P (.frame (dec w.toNat ++ [P.cmd.miscWr])) = .ok (.uwriteMisc w))
  ∧ (∀ (s : State) (w : Word48), s.profile.protoRev = .unified →
      (∃ t, exec (.uwriteDc w) s = .next t
        ∧ Exchanged s t .done (dec w.toNat ++ [s.profile.cmd.dcWr]) []
        ∧ t.dcAt (w.toNat / 2 ^ 32) = BitVec.ofNat 32 w.toNat
        ∧ (∀ b, b ≠ w.toNat / 2 ^ 32 → t.dcAt b = s.dcAt b)
        ∧ (∀ b, t.miscAt b = s.miscAt b)
        ∧ SameContexts s t ∧ t.staged = s.staged ∧ t.chsel = s.chsel)
      ∧ (∃ t, exec (.uwriteMisc w) s = .next t
        ∧ Exchanged s t .done (dec w.toNat ++ [s.profile.cmd.miscWr]) []
        ∧ t.miscAt (w.toNat / 2 ^ 32) = BitVec.ofNat 32 w.toNat
        ∧ (∀ b, b ≠ w.toNat / 2 ^ 32 → t.miscAt b = s.miscAt b)
        ∧ (∀ b, t.dcAt b = s.dcAt b)
        ∧ SameContexts s t ∧ t.staged = s.staged ∧ t.chsel = s.chsel))

/-- `READ.PDEF` and `READ.MISC` answer the register's value and put it on the Link as one data line
(R121, R123). That this line is kept as data, gives the result and raises no `DEVICE_ERROR`, whatever the free
`isErrorLine` says of it, is the model's choice, against R65's words (assumption 27). -/
def Obligations.ReadRegistersReturn : Prop :=
  ∀ (s : State) (a : Addr),
    (∀ c, s.chsel = some (.one c) → a.toNat < 4 * s.profile.nSlots →
      ∃ t, exec (.readPdef a) s = .next t
        ∧ Exchanged s t (.word (s.pdefAt c a.toNat)) (dec a.toNat ++ [s.profile.cmd.pdefRd])
            [dec (s.pdefAt c a.toNat).toNat ++ [0x0A#8]]
        ∧ SameBlock s t)
    ∧ (∃ t, exec (.readMisc a) s = .next t
        ∧ Exchanged s t (.word (s.miscAt a.toNat)) (dec a.toNat ++ [s.profile.cmd.miscRd])
            [dec (s.miscAt a.toNat).toNat ++ [0x0A#8]]
        ∧ SameBlock s t)

/-- `READ.WAVE` at the register address of pair `p` answers `PACKPAIR` of the two samples of the selected channel,
which unpacks to them and whose bits above `2·ADDR_BITS` are zero, with one data line (R122). That this line is kept as
data, gives the result and raises no `DEVICE_ERROR`, whatever the free `isErrorLine` says of it, is the model's choice,
against R65's words (assumption 27). -/
def Obligations.ReadWaveReturns : Prop :=
  ∀ (s : State) (a : Addr) (c p : Nat), Inv s → s.chsel = some (.one c) →
    p < s.profile.waveRamCapacity / 2 → a.toNat = waveRegAddr s.profile p →
    ∃ (t : State) (w : Word), exec (.readWave a) s = .next t
      ∧ (s.profile.pairOrder = .evenLow →
          w.toNat = s.sampleAt c (2 * p + 1) * 2 ^ s.profile.addrBits + s.sampleAt c (2 * p))
      ∧ (s.profile.pairOrder = .evenHigh →
          w.toNat = s.sampleAt c (2 * p) * 2 ^ s.profile.addrBits + s.sampleAt c (2 * p + 1))
      ∧ w.toNat < 2 ^ (2 * s.profile.addrBits)
      ∧ Answers (.packpair (s.sampleAt c (2 * p)) (s.sampleAt c (2 * p + 1))) s (.word w) []
      ∧ unpairWord s.profile w = (s.sampleAt c (2 * p), s.sampleAt c (2 * p + 1))
      ∧ Exchanged s t (.word w) (dec a.toNat ++ [s.profile.cmd.waveRd]) [dec w.toNat ++ [0x0A#8]]
      ∧ SameBlock s t

/-- Reads and the error query change nothing of the block: not the register read, not `STAGED`, not `CHSEL`
(R47). -/
def Obligations.ReadsChangeNothing : Prop :=
  ∀ (s t : State) (a : Addr),
    ∀ i ∈ [Instr.readPdef a, .readWave a, .readMisc a, .errq], exec i s = .next t → SameBlock s t

/-- `CHSEL` selects the channel of its operand, or all channels for `CH_ALL`, and touches no other element of the
block; any other operand makes an illegal frame (R124). That it leaves the host's cached selection as it was
(`Exchanged.cache`) is the model's choice (assumption 11): R124 says nothing of the cache. -/
def Obligations.ChselSelects : Prop :=
  (∀ (P : Profile) (c : Nat), P.WF → c < P.cMaxChannels ∨ c = P.chAll →
    decode P (.frame (dec c ++ [P.cmd.chsel])) = .ok (.chsel c))
  ∧ (∀ (P : Profile) (c : Nat), P.WF → P.cMaxChannels ≤ c → c ≠ P.chAll →
    decode P (.frame (dec c ++ [P.cmd.chsel])) = .ok (.illegalFrame (dec c) P.cmd.chsel))
  ∧ (∀ (s : State) (c : Nat) (sel : Selection),
    (c < s.profile.cMaxChannels ∧ sel = .one c)
      ∨ (s.profile.cMaxChannels ≤ c ∧ c = s.profile.chAll ∧ sel = .all) →
    ∃ t, exec (.chsel c) s = .next t
      ∧ Exchanged s t .done (dec c ++ [s.profile.cmd.chsel]) []
      ∧ t.chsel = some sel ∧ t.staged = s.staged ∧ SameContexts s t ∧ SameCommon s t)

/-- `RESET` leaves nothing staged and nothing selected, and every register and sample at a new draw, which
reads the same until it is written; the host's cached selection is left stale (R39, R126, R162). -/
def Obligations.ResetRedraws : Prop :=
  ∀ s : State, ∃ t, exec .reset s = .next t
    ∧ SameHost s t ∧ t.hostCache = s.hostCache ∧ Returns t .done ∧ t.response.sent = [[s.profile.cmd.reset]]
    ∧ t.staged = none ∧ t.chsel = none
    ∧ (∀ ch a, t.pdefAt ch a = Config.resetPdef s.draws ch a)
    ∧ (∀ ch a, t.sampleAt ch a = Config.resetSample s.draws ch a % 2 ^ s.profile.addrBits)
    ∧ (∀ a, t.dcAt a = Config.resetDc s.draws a) ∧ (∀ a, t.miscAt a = Config.resetMisc s.draws a)
    ∧ s.draws < t.draws

/-- `VERSION` answers lines of any content, none of them error-marked, and `ERRQ` one mask for each kind of
`ERR_KINDS` in order; neither changes the block (R127, R129). -/
def Obligations.QueriesComplete : Prop :=
  ∀ s : State,
    (∃ (t : State) (ls : List Line), exec .version s = .next t
      ∧ Exchanged s t (.lines ls) [s.profile.cmd.version] ls ∧ SameBlock s t
      ∧ ∀ l ∈ ls, Config.isErrorLine l = false)
    ∧ (∃ (t : State) (m : List (String × Word)), exec .errq s = .next t
      ∧ Exchanged s t (.mapping m) [s.profile.cmd.errq] [] ∧ SameBlock s t
      ∧ m.map Prod.fst = s.profile.errKinds)

/-! ### Composite sequences -/

/-- `REGWRITE.x`: the frames are those of `ENCW`, and the register (or sample pair) of every channel reached
holds the masked value afterwards, whichever the revision; a pulse-definition register whole, or its field bits alone
where `PDEF_KEEP_UNUSED` is false (R26 to R30, R130). -/
def Obligations.RegwriteNetEffect : Prop :=
  ∀ (s : State) (a v : Nat), s.profile.WF →
    (a % 2 ^ 16 < 4 * s.profile.nSlots → s.chsel ≠ none →
      ∃ t fs, exec (.regwritePdef a v) s = .next t
        ∧ encodeWrite s.profile a v s.profile.cmd.pdefWr = .ok fs ∧ OnLink t fs []
        ∧ Returns t .done ∧ OwnFlags t [] ∧ SameHost s t ∧ t.hostCache = s.hostCache
        ∧ (∀ ch, Reached s ch →
            RegisterHolds s.profile (a % 2 ^ 16) (BitVec.ofNat 32 v) (t.pdefAt ch (a % 2 ^ 16)))
        ∧ (∀ ch b, ¬ (Reached s ch ∧ b = a % 2 ^ 16) → t.pdefAt ch b = s.pdefAt ch b)
        ∧ (∀ ch b, t.sampleAt ch b = s.sampleAt ch b)
        ∧ SameCommon s t ∧ StagedAfterWrite s t ∧ t.chsel = s.chsel)
    ∧ (∀ p, p < s.profile.waveRamCapacity / 2 → a % 2 ^ 16 = waveRegAddr s.profile p → s.chsel ≠ none →
        ∃ t fs, exec (.regwriteWave a v) s = .next t
          ∧ encodeWrite s.profile a v s.profile.cmd.waveWr = .ok fs ∧ OnLink t fs []
          ∧ Returns t .done ∧ OwnFlags t [] ∧ SameHost s t ∧ t.hostCache = s.hostCache
          ∧ (∀ ch, Reached s ch →
              t.sampleAt ch (2 * p) = (unpairWord s.profile (BitVec.ofNat 32 v)).1
              ∧ t.sampleAt ch (2 * p + 1) = (unpairWord s.profile (BitVec.ofNat 32 v)).2)
          ∧ (∀ ch b, ¬ (Reached s ch ∧ (b = 2 * p ∨ b = 2 * p + 1)) →
              t.sampleAt ch b = s.sampleAt ch b)
          ∧ (∀ ch b, t.pdefAt ch b = s.pdefAt ch b)
          ∧ SameCommon s t ∧ StagedAfterWrite s t ∧ t.chsel = s.chsel)
    ∧ (∃ t fs, exec (.regwriteDc a v) s = .next t
        ∧ encodeWrite s.profile a v s.profile.cmd.dcWr = .ok fs ∧ OnLink t fs []
        ∧ Returns t .done ∧ OwnFlags t [] ∧ SameHost s t ∧ t.hostCache = s.hostCache
        ∧ t.dcAt (a % 2 ^ 16) = BitVec.ofNat 32 v ∧ (∀ b, b ≠ a % 2 ^ 16 → t.dcAt b = s.dcAt b)
        ∧ (∀ b, t.miscAt b = s.miscAt b)
        ∧ SameContexts s t ∧ StagedAfterWrite s t ∧ t.chsel = s.chsel)
    ∧ (∃ t fs, exec (.regwriteMisc a v) s = .next t
        ∧ encodeWrite s.profile a v s.profile.cmd.miscWr = .ok fs ∧ OnLink t fs []
        ∧ Returns t .done ∧ OwnFlags t [] ∧ SameHost s t ∧ t.hostCache = s.hostCache
        ∧ t.miscAt (a % 2 ^ 16) = BitVec.ofNat 32 v ∧ (∀ b, b ≠ a % 2 ^ 16 → t.miscAt b = s.miscAt b)
        ∧ (∀ b, t.dcAt b = s.dcAt b)
        ∧ SameContexts s t ∧ StagedAfterWrite s t ∧ t.chsel = s.chsel)

/-- `SELECTCH`: a channel in range, or all, is selected and recorded by the host; any other integer fails
`InvalidChannel` with no bytes sent and nothing changed, and no other operation raises that error
(R138, R141). -/
def Obligations.SelectchSelects : Prop :=
  (∀ (s : State) (arg : ChannelArg) (n : Nat) (sel : Selection), s.profile.WF →
    (arg = .channel n ∧ n < s.profile.cMaxChannels ∧ sel = .one n)
      ∨ (arg = .all ∧ n = s.profile.chAll ∧ sel = .all) →
    ∃ t, exec (.selectch arg) s = .next t
      ∧ Returns t .done ∧ OwnFlags t [] ∧ SameHost s t ∧ OnLink t [dec n ++ [s.profile.cmd.chsel]] []
      ∧ t.chsel = some sel ∧ t.hostCache = some sel
      ∧ t.staged = s.staged ∧ SameContexts s t ∧ SameCommon s t)
  ∧ (∀ (s : State) (c : Int), c < 0 ∨ (s.profile.cMaxChannels : Int) ≤ c →
      Fails (.selectch (.channel c)) s (.invalidChannel c ((s.profile.cMaxChannels : Int) - 1)))
  ∧ (∀ (i : Instr) (s t : State) (v b : Int), exec i s = .next t →
      t.response.error = some (.invalidChannel v b) → ∃ arg, i = .selectch arg)

/-- `FINDSLOT` answers the first slot of the selected channel whose decoded fields are all zero, after four
reads for each slot visited, or slot 0 with `SLOT_WRAP` where there is none; it changes nothing of the
block (R132, R167). That the data line of each read is data, whatever `isErrorLine` says of it, is the model's choice
(assumption 27). -/
def Obligations.FindslotFirstEmpty : Prop :=
  ∀ (s : State) (c : Nat), s.profile.WF → s.chsel = some (.one c) →
    ∃ (t : State) (e : Nat), exec .findslot s = .next t
      ∧ Returns t (.slot e) ∧ SameHost s t ∧ SameBlock s t ∧ t.hostCache = s.hostCache
      ∧ ((e < s.profile.nSlots ∧ SlotBlank s c e ∧ (∀ e', e' < e → ¬ SlotBlank s c e')
            ∧ OwnFlags t [] ∧ t.response.sent.length = 4 * (e + 1))
          ∨ (e = 0 ∧ (∀ e', e' < s.profile.nSlots → ¬ SlotBlank s c e')
              ∧ OwnFlags t [.slotWrap] ∧ t.response.sent.length = 4 * s.profile.nSlots))

/-- `WRITEPDEF` with an entry, or with the first empty slot (slot 0 with `SLOT_WRAP` where there is none), leaves the
encoded registers in that slot of every channel reached, and every other register as it was; the flags are those of
the scan and of the encoding; where the entry is given, the frames are those of the four register writes (R131). An error of `ENCPDEF` at
the entry given, or, where none is given and the scan reads one channel, at any slot, is its own error, with nothing
sent: `BadOperand` for the wrong form of `wave`, `OutOfRange` under `STRICT` for a field that does not fit (R131, R143,
R145, R154; that the reads of the scan, those of `FINDSLOT`, then stand in `probes` and not in what is sent is the
model's choice, assumption 29; what `BadOperand` records beside the operand is assumption 31; that the data line of each
read of the scan is data is assumption 27). -/
def Obligations.WritepdefFillsSlot : Prop :=
  (∀ (s : State) (w : WaveOperand) (st : Nat) (gain tf : Rat) (su : Nat) (entry : Option Nat) (e : Nat)
    (writes : List (Nat × Word)) (scanFlags flags : List Warning),
    s.profile.WF → s.chsel ≠ none →
    (entry = some e ∧ scanFlags = []
      ∨ entry = none ∧ ∃ c, s.chsel = some (.one c)
          ∧ ((e < s.profile.nSlots ∧ SlotBlank s c e ∧ (∀ e', e' < e → ¬ SlotBlank s c e')
                ∧ scanFlags = [])
              ∨ (e = 0 ∧ (∀ e', e' < s.profile.nSlots → ¬ SlotBlank s c e') ∧ scanFlags = [.slotWrap]))) →
    encodePdef s.profile e st w gain tf su = .ok (writes, flags) →
    ∃ t, exec (.writepdef w st gain tf su entry) s = .next t
      ∧ Returns t (.slot e) ∧ OwnFlags t (scanFlags ++ flags) ∧ SameHost s t ∧ t.hostCache = s.hostCache
      ∧ writes.map Prod.fst = [4 * e, 4 * e + 1, 4 * e + 2, 4 * e + 3]
      ∧ (∀ ch, Reached s ch → ∀ av ∈ writes, t.pdefAt ch av.1 = av.2)
      ∧ (∀ ch b, ¬ (Reached s ch ∧ 4 * e ≤ b ∧ b < 4 * e + 4) → t.pdefAt ch b = s.pdefAt ch b)
      ∧ (∀ ch b, t.sampleAt ch b = s.sampleAt ch b)
      ∧ SameCommon s t ∧ StagedAfterWrite s t ∧ t.chsel = s.chsel
      ∧ (entry = some e → OnLink t (registerFrames s.profile s.profile.cmd.pdefWr writes) []))
  ∧ (∀ (s : State) (w : WaveOperand) (st : Nat) (gain tf : Rat) (su : Nat), s.profile.WF →
      (∀ e err, Fails (.encpdef e st w gain tf su) s err →
        Fails (.writepdef w st gain tf su (some e)) s err
        ∧ (e < s.profile.nSlots → (∃ c, s.chsel = some (.one c)) →
            Fails (.writepdef w st gain tf su none) s err
            ∧ ∃ t u, exec (.writepdef w st gain tf su none) s = .next t ∧ exec .findslot s = .next u
                ∧ t.response.probes = u.response.sent))
      ∧ (∀ entry : Option Nat, entry.getD 0 < s.profile.nSlots →
          (entry = none → ∃ c, s.chsel = some (.one c)) →
          (waveFits s.profile.waveFieldMode w = false →
            Fails (.writepdef w st gain tf su entry) s
              (.badOperand .wave (.wave w) (.waveForm s.profile.waveFieldMode)))
          ∧ (waveFits s.profile.waveFieldMode w = true → s.profile.strict = true →
              ¬ (st ≤ 0xFFFFFF ∧ (∀ id, w = .id id → id ≤ 0xFFFFFFFF)
                ∧ (∀ wa wl, w = .addrLen wa wl → wl ≤ 0xFFF ∧ wa ≤ 0xFFF)
                ∧ fits16 (scaleGain s.profile gain) = true ∧ fits16 (scaleTime s.profile tf) = true
                ∧ su ≤ 0x1FFFF) →
              ∃ field value bound,
                Fails (.writepdef w st gain tf su entry) s (.outOfRange field value bound))))

/-- `WRITEWAVE` from an even address within the capacity leaves the packed pairs of the padded table in the RAM
of every channel reached, or of every channel where it broadcasts, and every other sample as it was
(R133). Under `STRICT` the first sample above `SMAX` is the error, with nothing sent (R133, R143). -/
def Obligations.WritewaveStores : Prop :=
  (∀ (s : State) (start : Nat) (samples : List Nat) (all : Bool) (n : Nat), s.profile.WF →
    n = samples.length + samples.length % 2 → start % 2 = 0 → start + n ≤ s.profile.waveRamCapacity →
    s.profile.strict = false ∨ (∀ v ∈ samples, v ≤ s.profile.smax) →
    all = true ∨ s.chsel ≠ none →
    ∃ t, exec (.writewave start samples all) s = .next t
      ∧ Returns t .done ∧ SameHost s t
      ∧ (∀ x, (∀ line, x ≠ .deviceError line) → (x ∈ t.response.warnings ↔
          ∃ v ∈ samples, s.profile.smax < v ∧ x = .outOfRange .sample v s.profile.smax))
      ∧ (all = true → t.chsel = some .all ∧ t.hostCache = some .all)
      ∧ (all = false → t.chsel = s.chsel ∧ t.hostCache = s.hostCache)
      ∧ OnLink t ((if all then [dec s.profile.chAll ++ [s.profile.cmd.chsel]] else [])
          ++ registerFrames s.profile s.profile.cmd.waveWr ((List.range (n / 2)).map fun k =>
            (waveRegAddr s.profile (start / 2 + k),
              pairWord s.profile (samples.getD (2 * k) 0) (samples.getD (2 * k + 1) 0)))) []
      ∧ (∀ ch k, Reached t ch → 2 * k < n →
          (t.sampleAt ch (start + 2 * k), t.sampleAt ch (start + 2 * k + 1))
            = unpairWord s.profile
                (pairWord s.profile (samples.getD (2 * k) 0) (samples.getD (2 * k + 1) 0)))
      ∧ (∀ ch b, ¬ (Reached t ch ∧ start ≤ b ∧ b < start + n) → t.sampleAt ch b = s.sampleAt ch b)
      ∧ (∀ ch b, t.pdefAt ch b = s.pdefAt ch b) ∧ SameCommon s t
      ∧ (samples ≠ [] → StagedAfterWrite s t) ∧ (samples = [] → t.staged = s.staged))
  ∧ (∀ (s : State) (start : Nat) (before after : List Nat) (v : Nat) (all : Bool) (n : Nat),
      s.profile.strict = true → start % 2 = 0 →
      n = (before ++ v :: after).length + (before ++ v :: after).length % 2 →
      start + n ≤ s.profile.waveRamCapacity → (∀ u ∈ before, u ≤ s.profile.smax) → s.profile.smax < v →
      Fails (.writewave start (before ++ v :: after) all) s (.outOfRange .sample v s.profile.smax))

/-- The checks of alignment and address, before the first byte: an odd start is `AlignmentError`, whatever `STRICT` and
the broadcast are, and no other operation raises it (R142); a table, a read or an entry past the end is
`InvalidAddress` (R144); nothing is sent and nothing changes. The checks of the table and of the entry are decisions
of the spec where its source is silent (D31, D34; assumption 23). That the entry is checked first, so that the last
clause holds for a `wave` of the wrong form too, is the pseudocode of R102 over the list of R152, the model's choice
(assumption 12). -/
def Obligations.AddressChecksFirst : Prop :=
  (∀ (s : State) (start : Nat) (samples : List Nat) (all : Bool), start % 2 = 1 →
    Fails (.writewave start samples all) s (.alignmentError start))
  ∧ (∀ (i : Instr) (s t : State) (v : Nat), exec i s = .next t →
      t.response.error = some (.alignmentError v) → ∃ start samples all, i = .writewave start samples all)
  ∧ (∀ (s : State) (start : Nat) (samples : List Nat) (all : Bool) (n : Nat), start % 2 = 0 →
      n = samples.length + samples.length % 2 → s.profile.waveRamCapacity < start + n →
      Fails (.writewave start samples all) s
        (.invalidAddress .startAddressPlusLength ((start + n : Nat) : Int) s.profile.waveRamCapacity))
  ∧ (∀ (s : State) (start length : Nat), s.profile.waveRamCapacity < start + length →
      Fails (.readwave start length) s
        (.invalidAddress .startAddressPlusLength ((start + length : Nat) : Int) s.profile.waveRamCapacity))
  ∧ (∀ (s : State) (e st : Nat) (w : WaveOperand) (gain tf : Rat) (su : Nat), s.profile.nSlots ≤ e →
      Fails (.encpdef e st w gain tf su) s (.invalidAddress .entry e ((s.profile.nSlots : Int) - 1))
      ∧ Fails (.writepdef w st gain tf su (some e)) s
          (.invalidAddress .entry e ((s.profile.nSlots : Int) - 1)))

/-- `READWAVE` within the capacity answers the samples of the selected channel from the start address, odd
or even, and changes nothing of the block; a read of nothing sends nothing (R134). That the data line of each read is
data, whatever `isErrorLine` says of it, is the model's choice (assumption 27). -/
def Obligations.ReadwaveReturns : Prop :=
  ∀ (s : State) (start length : Nat), Inv s → start + length ≤ s.profile.waveRamCapacity →
    (length = 0 → Answers (.readwave start 0) s (.naturals []) [])
    ∧ (∀ c, s.chsel = some (.one c) →
        ∃ t, exec (.readwave start length) s = .next t
          ∧ Returns t (.naturals ((List.range length).map fun i => s.sampleAt c (start + i)))
          ∧ OwnFlags t [] ∧ SameHost s t ∧ SameBlock s t ∧ t.hostCache = s.hostCache)

/-- A table written and read back under one selected channel comes back as it was (R133, R134, R94). That
the data line of each read is data, whatever `isErrorLine` says of it, is the model's choice (assumption 27). -/
def Obligations.TableReadsBack : Prop :=
  ∀ (s : State) (c start : Nat) (samples : List Nat), Inv s → s.chsel = some (.one c) →
    start % 2 = 0 → start + (samples.length + samples.length % 2) ≤ s.profile.waveRamCapacity →
    (∀ v ∈ samples, v ≤ s.profile.smax) →
    ∃ t u, exec (.writewave start samples false) s = .next t
      ∧ exec (.readwave start samples.length) t = .next u
      ∧ Returns u (.naturals samples)

/-- `CLEARPDEF` writes 0 to each pulse-definition register in address order, `CLEARWAVE` to each sample pair: every
register, or every sample, of every channel reached is 0 afterwards, every slot is empty, `STAGED` is what the register
writes leave (none under `legacy`, as it was under `unified`, and as it was where there is no register to write), and
every other element of the block and of the host is what it was (R130, R135, R136). -/
def Obligations.ClearsZero : Prop :=
  ∀ s : State, s.profile.WF → s.chsel ≠ none →
    (∃ t, exec .clearpdef s = .next t
      ∧ Returns t .done ∧ OwnFlags t [] ∧ SameHost s t ∧ t.hostCache = s.hostCache
      ∧ (∀ ch a, Reached s ch → a < 4 * s.profile.nSlots → t.pdefAt ch a = 0)
      ∧ (∀ ch e, Reached s ch → e < s.profile.nSlots → SlotBlank t ch e)
      ∧ (∀ ch a, ¬ (Reached s ch ∧ a < 4 * s.profile.nSlots) → t.pdefAt ch a = s.pdefAt ch a)
      ∧ (∀ ch a, t.sampleAt ch a = s.sampleAt ch a)
      ∧ SameCommon s t ∧ t.chsel = s.chsel
      ∧ (0 < s.profile.nSlots → StagedAfterWrite s t) ∧ (s.profile.nSlots = 0 → t.staged = s.staged)
      ∧ OnLink t (registerFrames s.profile s.profile.cmd.pdefWr
          ((List.range (4 * s.profile.nSlots)).map fun a => (a, 0))) [])
    ∧ (∃ t, exec .clearwave s = .next t
      ∧ Returns t .done ∧ OwnFlags t [] ∧ SameHost s t ∧ t.hostCache = s.hostCache
      ∧ (∀ ch a, Reached s ch → a < s.profile.waveRamCapacity → t.sampleAt ch a = 0)
      ∧ (∀ ch a, ¬ (Reached s ch ∧ a < s.profile.waveRamCapacity) → t.sampleAt ch a = s.sampleAt ch a)
      ∧ (∀ ch a, t.pdefAt ch a = s.pdefAt ch a)
      ∧ SameCommon s t ∧ t.chsel = s.chsel
      ∧ (0 < s.profile.waveRamCapacity → StagedAfterWrite s t)
      ∧ (s.profile.waveRamCapacity = 0 → t.staged = s.staged)
      ∧ OnLink t (registerFrames s.profile s.profile.cmd.waveWr
          ((List.range (s.profile.waveRamCapacity / 2)).map fun p => (waveRegAddr s.profile p, 0))) [])

/-- `READERRS` answers the reports of the queried masks, with the bit reversal, and their number, which is the
number of set bits, and changes nothing of the block. With 32 channels it always completes; with fewer it completes
where every mask fits, and where one has a bit without a channel it ends with `BadOperand` and leaves no trace (R107,
R129, R137, R154; that the query then stands in `probes` and not in what is sent is the model's choice, assumption 29). -/
def Obligations.ReaderrsCounts : Prop :=
  (∀ s : State, s.profile.cMaxChannels = 32 →
    ∃ (t q : State) (m : List (String × Word)) (rs : List (String × Nat)),
      exec .readerrs s = .next t ∧ exec .errq s = .next q ∧ Returns q (.mapping m) ∧ CountsErrors s t m rs)
  ∧ (∀ s : State, ∃ (q : State) (m : List (String × Word)), exec .errq s = .next q ∧ Returns q (.mapping m)
      ∧ (((∀ km ∈ m, km.2.toNat < 2 ^ s.profile.cMaxChannels)
            ∧ ∃ t rs, exec .readerrs s = .next t ∧ CountsErrors s t m rs)
          ∨ ∃ (before after : List (String × Word)) (k : String) (mask : Word),
              m = before ++ (k, mask) :: after
              ∧ (∀ km ∈ before, km.2.toNat < 2 ^ s.profile.cMaxChannels)
              ∧ 2 ^ s.profile.cMaxChannels ≤ mask.toNat
              ∧ Fails .readerrs s
                  (.badOperand .mask (.num mask.toNat) (.atMost (2 ^ s.profile.cMaxChannels - 1)))
              ∧ ∃ t, exec .readerrs s = .next t ∧ t.response.probes = q.response.sent))

/-! ### The session (surrounding software) -/

/-- The handshake: zero lines are `NoDevice`; of one or more lines, the concatenation holds both tokens and the
session is `Ready`, or it lacks one and the error is `VersionMismatch` with the lines received; a transport
failure ends in `Disconnected` (R147, R150). -/
def Obligations.HandshakeVerdicts : Prop :=
  Session.next .versionChecking (.handshake []) = .noDevice
  ∧ handshakeError [] = some .noDevice
  ∧ (∀ lines : List Line, lines ≠ [] →
      (handshakeError lines = none ↔
        Config.versionToken1 <:+: lines.flatten ∧ Config.versionToken2 <:+: lines.flatten)
      ∧ (handshakeError lines = none ∨ handshakeError lines = some (.versionMismatch lines))
      ∧ (Session.next .versionChecking (.handshake lines) = .ready ↔ handshakeError lines = none)
      ∧ (Session.next .versionChecking (.handshake lines) = .versionMismatch ↔
          handshakeError lines ≠ none))
  ∧ (∀ st : Session, Session.next st .transportFailure = .disconnected)
end

