-- ==== Sys2Proof/Laws/Cells.lean ====
section
/-! SUPPORT. The laws of the register spaces: a read after a write, what a write leaves alone, and that every
write keeps the canonical form. -/

namespace Sys2Proof.Machine

open Sys2Proof

@[simp] theorem locLt_iff (k l : Loc) : locLt k l = true ↔ k.1 < l.1 ∨ (k.1 = l.1 ∧ k.2 < l.2) := by
  simp [locLt]

theorem locLt_trans {k l m : Loc} (h₁ : locLt k l = true) (h₂ : locLt l m = true) :
    locLt k m = true := by
  simp only [locLt_iff] at *
  omega

theorem locLt_of_not {k l : Loc} (h₁ : k ≠ l) (h₂ : ¬ locLt l k = true) : locLt k l = true := by
  have h : ¬ (k.1 = l.1 ∧ k.2 = l.2) := fun e => h₁ (Prod.ext e.1 e.2)
  simp only [locLt_iff] at *
  omega

@[simp] theorem Cells.read_nil {α : Type} (l : Loc) : Cells.read ([] : Cells α) l = none := rfl

theorem Cells.read_cons {α : Type} (k l : Loc) (v : α) (m : Cells α) :
    Cells.read ((k, v) :: m) l = if k = l then some v else Cells.read m l := rfl

/-- A read after a write to the same location gives the value written. -/
@[simp] theorem Cells.read_write_same {α : Type} (m : Cells α) (l : Loc) (v : α) :
    Cells.read (Cells.write m l v) l = some v := by
  induction m with
  | nil => simp [Cells.write, Cells.read]
  | cons e m ih =>
    obtain ⟨k, w⟩ := e
    simp only [Cells.write]
    split
    · simp [Cells.read]
    · rename_i hk
      split
      · simp [Cells.read]
      · simp [Cells.read_cons, hk, ih]

/-- A write leaves every other location alone. -/
theorem Cells.read_write_ne {α : Type} (m : Cells α) {l l' : Loc} (v : α) (h : l' ≠ l) :
    Cells.read (Cells.write m l v) l' = Cells.read m l' := by
  induction m with
  | nil => simp [Cells.write, Cells.read, Ne.symm h]
  | cons e m ih =>
    obtain ⟨k, w⟩ := e
    simp only [Cells.write]
    split
    · rename_i hk
      subst hk
      simp [Cells.read_cons, Ne.symm h]
    · split
      · simp [Cells.read_cons, Ne.symm h]
      · simp only [Cells.read_cons, ih]

/-- What a read after a write gives, at any location. -/
theorem Cells.read_write {α : Type} (m : Cells α) (l l' : Loc) (v : α) :
    Cells.read (Cells.write m l v) l' = if l' = l then some v else Cells.read m l' := by
  split
  · rename_i h; subst h; simp
  · rename_i h; exact Cells.read_write_ne m v h

/-- An entry of a written space is the one written or one that was there. -/
theorem Cells.mem_write {α : Type} {m : Cells α} {l : Loc} {v : α} {e : Loc × α}
    (h : e ∈ Cells.write m l v) : e = (l, v) ∨ e ∈ m := by
  induction m with
  | nil => simpa [Cells.write] using h
  | cons d m ih =>
    obtain ⟨k, w⟩ := d
    simp only [Cells.write] at h
    split at h
    · simp only [List.mem_cons] at h ⊢
      tauto
    · split at h
      · simp only [List.mem_cons] at h ⊢
        tauto
      · simp only [List.mem_cons] at h ⊢
        rcases h with h | h
        · exact .inr (.inl h)
        · rcases ih h with h | h
          · exact .inl h
          · exact .inr (.inr h)

/-- What a read finds is an entry. -/
theorem Cells.mem_of_read {α : Type} {m : Cells α} {l : Loc} {v : α} (h : Cells.read m l = some v) :
    (l, v) ∈ m := by
  induction m with
  | nil => simp at h
  | cons e m ih =>
    obtain ⟨k, w⟩ := e
    rw [Cells.read_cons] at h
    split at h
    · rename_i hk
      cases h
      subst hk
      exact List.mem_cons_self
    · exact List.mem_cons_of_mem _ (ih h)

theorem Cells.wf_cons {α : Type} {k : Loc} {v : α} {m : Cells α} :
    Cells.wf ((k, v) :: m) = true ↔ (∀ e ∈ m.head?, locLt k e.1 = true) ∧ Cells.wf m = true := by
  cases m with
  | nil => simp [Cells.wf]
  | cons e m => obtain ⟨l, w⟩ := e; simp [Cells.wf]

theorem Cells.head_write {α : Type} {m : Cells α} {l : Loc} {v : α} {e : Loc × α}
    (h : (Cells.write m l v).head? = some e) : e.1 = l ∨ m.head? = some e := by
  cases m with
  | nil => simp [Cells.write] at h; subst h; exact .inl rfl
  | cons d m =>
    obtain ⟨k, w⟩ := d
    simp only [Cells.write] at h
    split at h
    · simp at h; subst h; exact .inl rfl
    · split at h
      · simp at h; subst h; exact .inl rfl
      · simp at h; subst h; exact .inr rfl

/-- A write keeps the canonical form. -/
theorem Cells.wf_write {α : Type} {m : Cells α} (l : Loc) (v : α) (h : Cells.wf m = true) :
    Cells.wf (Cells.write m l v) = true := by
  induction m with
  | nil => rfl
  | cons e m ih =>
    obtain ⟨k, w⟩ := e
    have hm := (Cells.wf_cons.1 h)
    simp only [Cells.write]
    split
    · rename_i hk
      subst hk
      exact Cells.wf_cons.2 ⟨hm.1, hm.2⟩
    · rename_i hk
      split
      · rename_i hlt
        exact Cells.wf_cons.2 ⟨by simpa using hlt, h⟩
      · rename_i hlt
        refine Cells.wf_cons.2 ⟨?_, ih hm.2⟩
        intro e he
        rcases Cells.head_write (Option.mem_def.1 he) with h' | h'
        · rw [h']; exact locLt_of_not hk hlt
        · exact hm.1 e h'

/-! ### The same value at every channel of a list -/

theorem writeEach_nil {α : Type} (a : Nat) (v : α) (m : Cells α) : writeEach [] a v m = m := rfl

theorem writeEach_cons {α : Type} (ch : Nat) (chs : List Nat) (a : Nat) (v : α) (m : Cells α) :
    writeEach (ch :: chs) a v m = writeEach chs a v (m.write (ch, a) v) := rfl

/-- What a read after a write to several channels gives. -/
theorem read_writeEach {α : Type} (chs : List Nat) (a : Nat) (v : α) (m : Cells α) (ch b : Nat) :
    (writeEach chs a v m).read (ch, b) = if ch ∈ chs ∧ b = a then some v else m.read (ch, b) := by
  induction chs generalizing m with
  | nil => simp [writeEach_nil]
  | cons c chs ih =>
    rw [writeEach_cons, ih, Cells.read_write]
    by_cases h₁ : ch ∈ chs <;> by_cases h₂ : b = a <;> by_cases h₃ : ch = c <;> simp_all

theorem wf_writeEach {α : Type} (chs : List Nat) (a : Nat) (v : α) {m : Cells α} (h : m.wf = true) :
    (writeEach chs a v m).wf = true := by
  induction chs generalizing m with
  | nil => exact h
  | cons c chs ih => exact ih (Cells.wf_write _ _ h)

theorem mem_writeEach {α : Type} {chs : List Nat} {a : Nat} {v : α} {m : Cells α} {e : Loc × α}
    (h : e ∈ writeEach chs a v m) : (e.1.1 ∈ chs ∧ e.1.2 = a ∧ e.2 = v) ∨ e ∈ m := by
  induction chs generalizing m with
  | nil => exact .inr h
  | cons c chs ih =>
    rcases ih h with ⟨h₁, h₂⟩ | h'
    · exact .inl ⟨List.mem_cons_of_mem _ h₁, h₂⟩
    · rcases Cells.mem_write h' with h'' | h''
      · subst h''; exact .inl ⟨List.mem_cons_self, rfl, rfl⟩
      · exact .inr h''

/-! ### A sample pair at every channel of a list -/

theorem writePairs_cons (ch : Nat) (chs : List Nat) (p : Nat) (pair : Nat × Nat) (m : Cells Nat) :
    writePairs (ch :: chs) p pair m
      = writePairs chs p pair ((m.write (ch, 2 * p) pair.1).write (ch, 2 * p + 1) pair.2) := rfl

/-- What a read after a pair write to several channels gives. -/
theorem read_writePairs (chs : List Nat) (p : Nat) (pair : Nat × Nat) (m : Cells Nat) (ch b : Nat) :
    (writePairs chs p pair m).read (ch, b) =
      if ch ∈ chs ∧ b = 2 * p then some pair.1
      else if ch ∈ chs ∧ b = 2 * p + 1 then some pair.2
      else m.read (ch, b) := by
  induction chs generalizing m with
  | nil => simp [writePairs]
  | cons c chs ih =>
    rw [writePairs_cons, ih, Cells.read_write, Cells.read_write]
    by_cases h₁ : ch ∈ chs <;> by_cases h₂ : b = 2 * p <;> by_cases h₄ : b = 2 * p + 1 <;>
      by_cases h₃ : ch = c <;> simp_all

theorem wf_writePairs (chs : List Nat) (p : Nat) (pair : Nat × Nat) {m : Cells Nat}
    (h : m.wf = true) : (writePairs chs p pair m).wf = true := by
  induction chs generalizing m with
  | nil => exact h
  | cons c chs ih => exact ih (Cells.wf_write _ _ (Cells.wf_write _ _ h))

theorem mem_writePairs {chs : List Nat} {p : Nat} {pair : Nat × Nat} {m : Cells Nat} {e : Loc × Nat}
    (h : e ∈ writePairs chs p pair m) :
    (e.1.1 ∈ chs ∧ ((e.1.2 = 2 * p ∧ e.2 = pair.1) ∨ (e.1.2 = 2 * p + 1 ∧ e.2 = pair.2))) ∨ e ∈ m := by
  induction chs generalizing m with
  | nil => exact .inr h
  | cons c chs ih =>
    rcases ih h with ⟨h₁, h₂⟩ | h'
    · exact .inl ⟨List.mem_cons_of_mem _ h₁, h₂⟩
    · rcases Cells.mem_write h' with h'' | h''
      · subst h''; exact .inl ⟨List.mem_cons_self, .inr ⟨rfl, rfl⟩⟩
      · rcases Cells.mem_write h'' with h₃ | h₃
        · subst h₃; exact .inl ⟨List.mem_cons_self, .inl ⟨rfl, rfl⟩⟩
        · exact .inr h₃

/-! ### The state's four spaces -/

/-- The reset state's spaces have the canonical form. -/
theorem reset_memoryWf : State.reset.memoryWf = true := rfl

theorem memoryWf_iff (s : State) :
    s.memoryWf = true ↔ s.pdef.wf = true ∧ s.wram.wf = true ∧ s.dcreg.wf = true ∧ s.misc.wf = true := by
  simp [State.memoryWf, and_assoc]

theorem storePdef_memoryWf (chs : List Nat) (a : Nat) (v : Word) {s : State} (h : s.memoryWf = true) :
    (storePdef chs a v s).memoryWf = true := by
  rw [memoryWf_iff] at *
  exact ⟨wf_writeEach _ _ _ h.1, h.2⟩

theorem storePair_memoryWf (chs : List Nat) (p : Nat) (pair : Nat × Nat) {s : State}
    (h : s.memoryWf = true) : (storePair chs p pair s).memoryWf = true := by
  rw [memoryWf_iff] at *
  exact ⟨h.1, wf_writePairs _ _ _ h.2.1, h.2.2⟩

theorem storeDc_memoryWf (a : Nat) (v : Word) {s : State} (h : s.memoryWf = true) :
    (storeDc a v s).memoryWf = true := by
  rw [memoryWf_iff] at *
  exact ⟨h.1, h.2.1, Cells.wf_write _ _ h.2.2.1, h.2.2.2⟩

theorem storeMisc_memoryWf (a : Nat) (v : Word) {s : State} (h : s.memoryWf = true) :
    (storeMisc a v s).memoryWf = true := by
  rw [memoryWf_iff] at *
  exact ⟨h.1, h.2.1, h.2.2.1, Cells.wf_write _ _ h.2.2.2⟩

end Sys2Proof.Machine
end

