-- ==== Sys2Proof/Laws/Exec.lean ====
section
/-! SUPPORT. The meaning of each operation as one equation over the shared operations. -/

namespace Sys2Proof.Machine

open Sys2Proof

theorem exec_evalpoly (degree : Nat) (x : Rat) (coefficients : List Rat) (s : State) :
    exec (.evalpoly degree x coefficients) s =
      runFunction (rationalResult (evalPoly s.profile degree x coefficients)) s := rfl

theorem exec_pshape (currentTime startTime riseTicks : Int) (timeFactor : Rat) (holdTicks : Int) (gain : Rat)
    (coefficients : List Rat) (s : State) :
    exec (.pshape currentTime startTime riseTicks timeFactor holdTicks gain coefficients) s =
      runFunction (rationalResult
        (pulseShape s.profile currentTime startTime riseTicks timeFactor holdTicks gain coefficients)) s := rfl

theorem exec_synth (waveLength : Nat) (coefficients : List Rat) (s : State) :
    exec (.synth waveLength coefficients) s =
      let t := synthTable s.profile waveLength coefficients
      runFunction (.ok (.naturals t.1, t.2)) s := rfl

theorem exec_v2dac (voltage referenceVoltage : Rat) (referenceMode : RefMode) (s : State) :
    exec (.v2dac voltage referenceVoltage referenceMode) s =
      runFunction
        (match voltageToDac s.profile voltage referenceVoltage referenceMode with
          | .ok (code, ws) => .ok (.natural code, ws)
          | .error e => .error e) s := rfl

theorem exec_packpair (first second : Nat) (s : State) :
    exec (.packpair first second) s =
      runFunction
        (match packPair s.profile first second with
          | .ok (w, ws) => .ok (.word w, ws)
          | .error e => .error e) s := rfl

theorem exec_unpackpair (word : Word) (s : State) :
    exec (.unpackpair word) s =
      let p := unpairWord s.profile word
      runFunction (.ok (.pair p.1 p.2, [])) s := rfl

theorem exec_packtable (samples : List Nat) (s : State) :
    exec (.packtable samples) s =
      runFunction
        (match packTable s.profile samples with
          | .ok (words, ws) => .ok (.words words, ws)
          | .error e => .error e) s := rfl

theorem exec_mkwaveid (length startAddress : Nat) (s : State) :
    exec (.mkwaveid length startAddress) s =
      runFunction
        (match mkWaveId s.profile length startAddress with
          | .ok (w, ws) => .ok (.word w, ws)
          | .error e => .error e) s := rfl

theorem exec_unwaveid (waveId : Word) (s : State) :
    exec (.unwaveid waveId) s =
      let p := unpackWaveId waveId
      runFunction (.ok (.pair p.1 p.2, [])) s := rfl

theorem exec_encpdef (entry startTime : Nat) (wave : WaveOperand) (gain timeFactor : Rat) (sustain : Nat)
    (s : State) :
    exec (.encpdef entry startTime wave gain timeFactor sustain) s =
      runFunction
        (match encodePdef s.profile entry startTime wave gain timeFactor sustain with
          | .ok (writes, ws) => .ok (.writes writes, ws)
          | .error e => .error e) s := rfl

theorem exec_decpdef (r0 r1 r2 r3 : Word) (s : State) :
    exec (.decpdef r0 r1 r2 r3) s =
      runFunction
        (match decodeQuad s.profile r0 r1 r2 r3 with
          | none => .ok (.empty, [])
          | some c => .ok (.pulse c, [])) s := rfl

theorem exec_encw (address value : Nat) (commandByte : Byte) (s : State) :
    exec (.encw address value commandByte) s =
      runFunction
        (match encodeWrite s.profile address value commandByte with
          | .ok frames => .ok (.frames frames, [])
          | .error e => .error e) s := rfl

theorem exec_deccherr (mapping : List (String × Word)) (s : State) :
    exec (.deccherr mapping) s =
      runFunction
        (match decodeErrors s.profile mapping with
          | .ok rs => .ok (.reports rs, [])
          | .error e => .error e) s := rfl

theorem exec_illegalFn (opsel : Byte) (s : State) :
    exec (.illegalFn opsel) s =
      runFunction (.error (.illegalOperation opsel)) s := rfl

theorem exec_version (s : State) :
    exec (.version) s =
      runCommand (fun s => .ok (.done (.lines s.freeLines) (devVersion s))) s := rfl

theorem exec_regdump (s : State) :
    exec (.regdump) s =
      .refused .registerDumpUnspecified := rfl

theorem exec_reset (s : State) :
    exec (.reset) s =
      runCommand (fun s => .ok (.done .done (devReset s))) s := rfl

theorem exec_chsel (c : Nat) (s : State) :
    exec (.chsel c) s =
      runCommand (fun s => written (devChsel c s)) s := rfl

theorem exec_chen (m : Word) (s : State) :
    exec (.chen m) s =
      .refused .channelEnableUnspecified := rfl

theorem exec_readPdef (address : Addr) (s : State) :
    exec (.readPdef address) s =
      runCommand (fun s => readResult (devReadPdef address s)) s := rfl

theorem exec_commitPdef (address : Addr) (s : State) :
    exec (.commitPdef address) s =
      runCommand (fun s => written (devCommit .pdef address s)) s := rfl

theorem exec_uwritePdef (word48 : Word48) (s : State) :
    exec (.uwritePdef word48) s =
      runCommand (fun s => written (devUwrite .pdef word48 s)) s := rfl

theorem exec_readWave (address : Addr) (s : State) :
    exec (.readWave address) s =
      runCommand (fun s => readResult (devReadWave address s)) s := rfl

theorem exec_commitWave (address : Addr) (s : State) :
    exec (.commitWave address) s =
      runCommand (fun s => written (devCommit .wave address s)) s := rfl

theorem exec_uwriteWave (word48 : Word48) (s : State) :
    exec (.uwriteWave word48) s =
      runCommand (fun s => written (devUwrite .wave word48 s)) s := rfl

theorem exec_commitDc (address : Addr) (s : State) :
    exec (.commitDc address) s =
      runCommand (fun s => written (devCommit .dc address s)) s := rfl

theorem exec_uwriteDc (word48 : Word48) (s : State) :
    exec (.uwriteDc word48) s =
      runCommand (fun s => written (devUwrite .dc word48 s)) s := rfl

theorem exec_readMisc (address : Addr) (s : State) :
    exec (.readMisc address) s =
      runCommand (fun s => readResult (devReadMisc address s)) s := rfl

theorem exec_commitMisc (address : Addr) (s : State) :
    exec (.commitMisc address) s =
      runCommand (fun s => written (devCommit .misc address s)) s := rfl

theorem exec_uwriteMisc (word48 : Word48) (s : State) :
    exec (.uwriteMisc word48) s =
      runCommand (fun s => written (devUwrite .misc word48 s)) s := rfl

theorem exec_errq (s : State) :
    exec (.errq) s =
      runCommand (fun s => .ok (.done (.mapping s.errorMapping) (devErrq s))) s := rfl

theorem exec_stage (value : Word) (s : State) :
    exec (.stage value) s =
      runCommand (fun s => written (devStage value s)) s := rfl

theorem exec_illegalFrame (digits : List Byte) (last : Byte) (s : State) :
    exec (.illegalFrame digits last) s =
      .refused (.illegalFrame digits last) := rfl

theorem exec_regwritePdef (address value : Nat) (s : State) :
    exec (.regwritePdef address value) s =
      runCommand (fun s => written (regWrite .pdef address value s)) s := rfl

theorem exec_regwriteWave (address value : Nat) (s : State) :
    exec (.regwriteWave address value) s =
      runCommand (fun s => written (regWrite .wave address value s)) s := rfl

theorem exec_regwriteDc (address value : Nat) (s : State) :
    exec (.regwriteDc address value) s =
      runCommand (fun s => written (regWrite .dc address value s)) s := rfl

theorem exec_regwriteMisc (address value : Nat) (s : State) :
    exec (.regwriteMisc address value) s =
      runCommand (fun s => written (regWrite .misc address value s)) s := rfl

theorem exec_selectch (c : ChannelArg) (s : State) :
    exec (.selectch c) s =
      runCommand (selectChannel c) s := rfl

theorem exec_writepdef (wave : WaveOperand) (startTime : Nat) (gain timeFactor : Rat) (sustain : Nat)
    (entry : Option Nat) (s : State) :
    exec (.writepdef wave startTime gain timeFactor sustain entry) s =
      runCommand (writePdef wave startTime gain timeFactor sustain entry) s := rfl

theorem exec_findslot (s : State) :
    exec (.findslot) s =
      runCommand
        (fun s =>
          match findSlot s with
          | .error r => .error r
          | .ok (e, t) => .ok (.done (.slot e) t)) s := rfl

theorem exec_writewave (startAddress : Nat) (samples : List Nat) (broadcastAll : Bool) (s : State) :
    exec (.writewave startAddress samples broadcastAll) s =
      runCommand (writeTable startAddress samples broadcastAll) s := rfl

theorem exec_readwave (startAddress length : Nat) (s : State) :
    exec (.readwave startAddress length) s =
      runCommand (readTable startAddress length) s := rfl

theorem exec_clearpdef (s : State) :
    exec (.clearpdef) s =
      runCommand (fun s => written (regWrites .pdef (clearPdefWrites s.profile) s)) s := rfl

theorem exec_clearwave (s : State) :
    exec (.clearwave) s =
      runCommand (fun s => written (regWrites .wave (clearWaveWrites s.profile) s)) s := rfl

theorem exec_readerrs (s : State) :
    exec (.readerrs) s =
      runCommand readErrors s := rfl

end Sys2Proof.Machine
end

