-- ==== Sys2Proof/Laws/Link.lean ====
section
/-! SUPPORT. The laws of the Link's byte strings: a numeral is made of digits and has its number as its
value, a byte stream splits at the bytes that are no digits, and a profile's command bytes stand for their
commands. -/

namespace Sys2Proof.Machine

open Sys2Proof

/-! ### Numerals (R63) -/

theorem digitByte_toNat {d : Nat} (h : d < 10) : (digitByte d).toNat = 0x30 + d := by
  simp only [digitByte, BitVec.toNat_ofNat]
  omega

theorem isDigit_digitByte {d : Nat} (h : d < 10) : isDigit (digitByte d) = true := by
  simp only [isDigit, digitByte_toNat h]
  simp
  omega

theorem numVal_append (ds : List Byte) (b : Byte) :
    numVal (ds ++ [b]) = numVal ds * 10 + (b.toNat - 0x30) := by
  simp [numVal]

theorem decDigits_all_isDigit (fuel n : Nat) : ∀ b ∈ decDigits fuel n, isDigit b = true := by
  induction fuel generalizing n with
  | zero => simp [decDigits]
  | succ fuel ih =>
    intro b hb
    simp only [decDigits] at hb
    split at hb
    · rw [List.mem_singleton] at hb
      subst hb
      exact isDigit_digitByte (by omega)
    · rw [List.mem_append, List.mem_singleton] at hb
      rcases hb with hb | rfl
      · exact ih _ b hb
      · exact isDigit_digitByte (by omega)

theorem numVal_decDigits {fuel n : Nat} (h : n < fuel) : numVal (decDigits fuel n) = n := by
  induction fuel generalizing n with
  | zero => omega
  | succ fuel ih =>
    simp only [decDigits]
    split
    · rename_i hn
      simp [numVal, digitByte_toNat hn]
    · rw [numVal_append, ih (by omega), digitByte_toNat (by omega)]
      omega

/-- Every byte of a numeral is an ASCII digit. -/
theorem dec_isDigit (n : Nat) : ∀ b ∈ dec n, isDigit b = true := decDigits_all_isDigit _ n

/-- A numeral's value is its number. -/
@[simp] theorem numVal_dec (n : Nat) : numVal (dec n) = n := numVal_decDigits (Nat.lt_succ_self n)

theorem dec_ne_nil (n : Nat) : dec n ≠ [] := by
  simp only [dec, decDigits]
  split <;> simp

/-- A numeral is the canonical one of its value (R75). -/
@[simp] theorem canonical_dec (n : Nat) : canonical (dec n) = true := by
  simp [canonical]

theorem dec_injective {m n : Nat} (h : dec m = dec n) : m = n := by
  simpa using congrArg numVal h

/-! ### The splitting of a byte stream (R75) -/

theorem splitFrames_digits (pre ds rest : List Byte) (h : ∀ b ∈ ds, isDigit b = true) :
    splitFrames pre (ds ++ rest) = splitFrames (pre ++ ds) rest := by
  induction ds generalizing pre with
  | nil => simp
  | cons b ds ih =>
    simp only [List.cons_append, splitFrames, h b List.mem_cons_self, if_true]
    rw [ih _ fun c hc => h c (List.mem_cons_of_mem _ hc)]
    simp

/-- Digits and then a byte that is none are the first piece of a stream. -/
theorem splitFrames_piece (ds rest : List Byte) (b : Byte) (h : ∀ c ∈ ds, isDigit c = true)
    (hb : isDigit b = false) :
    splitFrames [] (ds ++ b :: rest)
      = ((ds, b) :: (splitFrames [] rest).1, (splitFrames [] rest).2) := by
  rw [splitFrames_digits _ _ _ h]
  simp [splitFrames, hb]

/-- The pieces and the tail of a stream are the stream, and split where its digits end. -/
theorem splitFrames_inv (pre stream : List Byte) (h : ∀ c ∈ pre, isDigit c = true) :
    pre ++ stream = (splitFrames pre stream).1.flatMap (fun p => p.1 ++ [p.2]) ++ (splitFrames pre stream).2
      ∧ ∀ p ∈ (splitFrames pre stream).1, (∀ c ∈ p.1, isDigit c = true) ∧ isDigit p.2 = false := by
  induction stream generalizing pre with
  | nil => simp [splitFrames]
  | cons b bs ih =>
    simp only [splitFrames]
    split
    · rename_i hb
      have := ih (pre ++ [b]) (by
        intro c hc
        rw [List.mem_append, List.mem_singleton] at hc
        rcases hc with hc | rfl
        · exact h c hc
        · exact hb)
      simpa using this
    · rename_i hb
      have := ih [] (by simp)
      refine ⟨?_, ?_⟩
      · rw [List.nil_append] at this
        simp [← this.1]
      · intro p hp
        simp only [List.mem_cons] at hp
        rcases hp with rfl | hp
        · exact ⟨h, by simpa using hb⟩
        · exact this.2 p hp

/-! ### Command bytes (R66, R67) -/

theorem Cmd.mem_all (c : Cmd) : c ∈ Cmd.all := by cases c <;> decide

/-- What a command byte stands for is the command of that byte. -/
theorem byteOf_of_commandOf {P : Profile} {b : Byte} {c : Cmd} (h : commandOf P b = some c) :
    P.cmd.byteOf c = b := by
  simpa using List.find?_some h

/-- The bytes of a profile are pairwise distinct, so each stands for its own command. -/
theorem commandOf_byteOf {P : Profile} (h : P.WF) (c : Cmd) : commandOf P (P.cmd.byteOf c) = some c := by
  have hinj := List.inj_on_of_nodup_map h.cmd_nodup
  rcases hc : commandOf P (P.cmd.byteOf c) with _ | d
  · have := List.find?_eq_none.1 hc c (Cmd.mem_all c)
    simp at this
  · exact congrArg some (hinj (Cmd.mem_all d) (Cmd.mem_all c) (byteOf_of_commandOf hc))

/-- No command byte is a digit. -/
theorem isDigit_byteOf {P : Profile} (h : P.WF) (c : Cmd) : isDigit (P.cmd.byteOf c) = false := by
  have := h.cmd_not_digit c (Cmd.mem_all c)
  simp only [isDigit]
  simpa using this

/-- The frame of a command with an operand is one piece. -/
theorem splitFrames_frame1 {P : Profile} (h : P.WF) (c : Cmd) (n : Nat) (rest : List Byte) :
    splitFrames [] (frame1 P c n ++ rest)
      = ((dec n, P.cmd.byteOf c) :: (splitFrames [] rest).1, (splitFrames [] rest).2) := by
  simp only [frame1, List.append_assoc]
  exact splitFrames_piece _ _ _ (dec_isDigit n) (isDigit_byteOf h c)

/-- The frame of a command without operand is one piece. -/
theorem splitFrames_frame0 {P : Profile} (h : P.WF) (c : Cmd) (rest : List Byte) :
    splitFrames [] (frame0 P c ++ rest)
      = (([], P.cmd.byteOf c) :: (splitFrames [] rest).1, (splitFrames [] rest).2) := by
  simp only [frame0]
  exact splitFrames_piece [] _ _ (by simp) (isDigit_byteOf h c)

/-- Decoding a frame with an operand in range gives the command with that operand (R75). -/
theorem decodeFrame_frame1 {P : Profile} (h : P.WF) {c : Cmd} {n : Nat} (hc : takesOperand c = true)
    (hn : operandInRange P c n = true) : decodeFrame P (frame1 P c n) = .ok (instrOfCmd P c n) := by
  have hs := splitFrames_frame1 h c n []
  simp only [List.append_nil, splitFrames] at hs
  simp [decodeFrame, hs, decodePiece, commandOf_byteOf h, digitsFit, hc, hn]

/-- Decoding the frame of a command without operand gives the command (R75). -/
theorem decodeFrame_frame0 {P : Profile} (h : P.WF) {c : Cmd} (hc : takesOperand c = false) :
    decodeFrame P (frame0 P c) = .ok (instrOfCmd P c 0) := by
  have hs := splitFrames_frame0 h c []
  simp only [List.append_nil, splitFrames] at hs
  simp [decodeFrame, hs, decodePiece, commandOf_byteOf h, digitsFit, hc, numVal]

/-! ### Data lines (R62, R64) -/

theorem newline_not_digit : isDigit newline = false := by decide

theorem comma_not_digit : isDigit comma = false := by decide

/-- The line of the bytes up to the first newline. -/
theorem takeLine_append (bs rest : List Byte) (h : ∀ b ∈ bs, b ≠ newline) :
    takeLine (bs ++ newline :: rest) = some (bs ++ [newline], rest) := by
  induction bs with
  | nil => simp [takeLine]
  | cons b bs ih =>
    have hb : b ≠ newline := h b List.mem_cons_self
    simp [takeLine, hb, ih fun c hc => h c (List.mem_cons_of_mem _ hc)]

end Sys2Proof.Machine
end

