-- ==== Sys2Proof/Laws/State.lean ====
section
/-! SUPPORT. One lemma for each field of the state under each named update, and for what each reader of the
state sees after an update that it does not look at. -/

namespace Sys2Proof.Machine

open Sys2Proof

/-! ### `start` -/

@[simp] theorem start_profile (s : State) : (s.start).profile = s.profile := rfl
@[simp] theorem start_program (s : State) : (s.start).program = s.program := rfl
@[simp] theorem start_pc (s : State) : (s.start).pc = s.pc := rfl
@[simp] theorem start_pdef (s : State) : (s.start).pdef = s.pdef := rfl
@[simp] theorem start_wram (s : State) : (s.start).wram = s.wram := rfl
@[simp] theorem start_dcreg (s : State) : (s.start).dcreg = s.dcreg := rfl
@[simp] theorem start_misc (s : State) : (s.start).misc = s.misc := rfl
@[simp] theorem start_staged (s : State) : (s.start).staged = s.staged := rfl
@[simp] theorem start_chsel (s : State) : (s.start).chsel = s.chsel := rfl
@[simp] theorem start_epoch (s : State) : (s.start).epoch = s.epoch := rfl
@[simp] theorem start_draws (s : State) : (s.start).draws = s.draws := rfl
@[simp] theorem start_hostCache (s : State) : (s.start).hostCache = s.hostCache := rfl
@[simp] theorem start_response (s : State) : (s.start).response = .blank := rfl
@[simp] theorem start_pdefAt (s : State) (ch a : Nat) : (s.start).pdefAt ch a = s.pdefAt ch a := rfl
@[simp] theorem start_sampleAt (s : State) (ch a : Nat) : (s.start).sampleAt ch a = s.sampleAt ch a := rfl
@[simp] theorem start_dcAt (s : State) (a : Nat) : (s.start).dcAt a = s.dcAt a := rfl
@[simp] theorem start_miscAt (s : State) (a : Nat) : (s.start).miscAt a = s.miscAt a := rfl
@[simp] theorem start_targets (s : State) : (s.start).targets = s.targets := rfl
@[simp] theorem start_source (s : State) : (s.start).source = s.source := rfl
@[simp] theorem start_memoryWf (s : State) : (s.start).memoryWf = s.memoryWf := rfl

/-! ### `warn` -/

@[simp] theorem warn_profile (ws : List Warning) (s : State) : (s.warn ws).profile = s.profile := rfl
@[simp] theorem warn_program (ws : List Warning) (s : State) : (s.warn ws).program = s.program := rfl
@[simp] theorem warn_pc (ws : List Warning) (s : State) : (s.warn ws).pc = s.pc := rfl
@[simp] theorem warn_pdef (ws : List Warning) (s : State) : (s.warn ws).pdef = s.pdef := rfl
@[simp] theorem warn_wram (ws : List Warning) (s : State) : (s.warn ws).wram = s.wram := rfl
@[simp] theorem warn_dcreg (ws : List Warning) (s : State) : (s.warn ws).dcreg = s.dcreg := rfl
@[simp] theorem warn_misc (ws : List Warning) (s : State) : (s.warn ws).misc = s.misc := rfl
@[simp] theorem warn_staged (ws : List Warning) (s : State) : (s.warn ws).staged = s.staged := rfl
@[simp] theorem warn_chsel (ws : List Warning) (s : State) : (s.warn ws).chsel = s.chsel := rfl
@[simp] theorem warn_epoch (ws : List Warning) (s : State) : (s.warn ws).epoch = s.epoch := rfl
@[simp] theorem warn_draws (ws : List Warning) (s : State) : (s.warn ws).draws = s.draws := rfl
@[simp] theorem warn_hostCache (ws : List Warning) (s : State) : (s.warn ws).hostCache = s.hostCache := rfl
@[simp] theorem warn_response_result (ws : List Warning) (s : State) : (s.warn ws).response.result = s.response.result := rfl
@[simp] theorem warn_response_warnings (ws : List Warning) (s : State) : (s.warn ws).response.warnings = s.response.warnings ++ ws := rfl
@[simp] theorem warn_response_error (ws : List Warning) (s : State) : (s.warn ws).response.error = s.response.error := rfl
@[simp] theorem warn_response_sent (ws : List Warning) (s : State) : (s.warn ws).response.sent = s.response.sent := rfl
@[simp] theorem warn_response_lines (ws : List Warning) (s : State) : (s.warn ws).response.lines = s.response.lines := rfl
@[simp] theorem warn_response_probes (ws : List Warning) (s : State) : (s.warn ws).response.probes = s.response.probes := rfl
@[simp] theorem warn_pdefAt (ws : List Warning) (s : State) (ch a : Nat) : (s.warn ws).pdefAt ch a = s.pdefAt ch a := rfl
@[simp] theorem warn_sampleAt (ws : List Warning) (s : State) (ch a : Nat) : (s.warn ws).sampleAt ch a = s.sampleAt ch a := rfl
@[simp] theorem warn_dcAt (ws : List Warning) (s : State) (a : Nat) : (s.warn ws).dcAt a = s.dcAt a := rfl
@[simp] theorem warn_miscAt (ws : List Warning) (s : State) (a : Nat) : (s.warn ws).miscAt a = s.miscAt a := rfl
@[simp] theorem warn_targets (ws : List Warning) (s : State) : (s.warn ws).targets = s.targets := rfl
@[simp] theorem warn_source (ws : List Warning) (s : State) : (s.warn ws).source = s.source := rfl
@[simp] theorem warn_memoryWf (ws : List Warning) (s : State) : (s.warn ws).memoryWf = s.memoryWf := rfl

/-! ### `probedTo` -/

@[simp] theorem probedTo_profile (s t : State) : (s.probedTo t).profile = s.profile := rfl
@[simp] theorem probedTo_program (s t : State) : (s.probedTo t).program = s.program := rfl
@[simp] theorem probedTo_pc (s t : State) : (s.probedTo t).pc = s.pc := rfl
@[simp] theorem probedTo_pdef (s t : State) : (s.probedTo t).pdef = s.pdef := rfl
@[simp] theorem probedTo_wram (s t : State) : (s.probedTo t).wram = s.wram := rfl
@[simp] theorem probedTo_dcreg (s t : State) : (s.probedTo t).dcreg = s.dcreg := rfl
@[simp] theorem probedTo_misc (s t : State) : (s.probedTo t).misc = s.misc := rfl
@[simp] theorem probedTo_staged (s t : State) : (s.probedTo t).staged = s.staged := rfl
@[simp] theorem probedTo_chsel (s t : State) : (s.probedTo t).chsel = s.chsel := rfl
@[simp] theorem probedTo_epoch (s t : State) : (s.probedTo t).epoch = s.epoch := rfl
@[simp] theorem probedTo_hostCache (s t : State) : (s.probedTo t).hostCache = s.hostCache := rfl
@[simp] theorem probedTo_draws (s t : State) : (s.probedTo t).draws = t.draws := rfl
@[simp] theorem probedTo_response_result (s t : State) : (s.probedTo t).response.result = s.response.result := rfl
@[simp] theorem probedTo_response_warnings (s t : State) : (s.probedTo t).response.warnings = s.response.warnings := rfl
@[simp] theorem probedTo_response_error (s t : State) : (s.probedTo t).response.error = s.response.error := rfl
@[simp] theorem probedTo_response_sent (s t : State) : (s.probedTo t).response.sent = s.response.sent := rfl
@[simp] theorem probedTo_response_lines (s t : State) : (s.probedTo t).response.lines = s.response.lines := rfl
@[simp] theorem probedTo_response_probes (s t : State) : (s.probedTo t).response.probes = t.response.sent := rfl
@[simp] theorem probedTo_pdefAt (s t : State) (ch a : Nat) : (s.probedTo t).pdefAt ch a = s.pdefAt ch a := rfl
@[simp] theorem probedTo_sampleAt (s t : State) (ch a : Nat) : (s.probedTo t).sampleAt ch a = s.sampleAt ch a := rfl
@[simp] theorem probedTo_dcAt (s t : State) (a : Nat) : (s.probedTo t).dcAt a = s.dcAt a := rfl
@[simp] theorem probedTo_miscAt (s t : State) (a : Nat) : (s.probedTo t).miscAt a = s.miscAt a := rfl
@[simp] theorem probedTo_targets (s t : State) : (s.probedTo t).targets = s.targets := rfl
@[simp] theorem probedTo_source (s t : State) : (s.probedTo t).source = s.source := rfl
@[simp] theorem probedTo_memoryWf (s t : State) : (s.probedTo t).memoryWf = s.memoryWf := rfl

/-! ### `succeed` -/

@[simp] theorem succeed_profile (r : Result) (s : State) : (s.succeed r).profile = s.profile := rfl
@[simp] theorem succeed_program (r : Result) (s : State) : (s.succeed r).program = s.program := rfl
@[simp] theorem succeed_pc (r : Result) (s : State) : (s.succeed r).pc = s.pc := rfl
@[simp] theorem succeed_pdef (r : Result) (s : State) : (s.succeed r).pdef = s.pdef := rfl
@[simp] theorem succeed_wram (r : Result) (s : State) : (s.succeed r).wram = s.wram := rfl
@[simp] theorem succeed_dcreg (r : Result) (s : State) : (s.succeed r).dcreg = s.dcreg := rfl
@[simp] theorem succeed_misc (r : Result) (s : State) : (s.succeed r).misc = s.misc := rfl
@[simp] theorem succeed_staged (r : Result) (s : State) : (s.succeed r).staged = s.staged := rfl
@[simp] theorem succeed_chsel (r : Result) (s : State) : (s.succeed r).chsel = s.chsel := rfl
@[simp] theorem succeed_epoch (r : Result) (s : State) : (s.succeed r).epoch = s.epoch := rfl
@[simp] theorem succeed_draws (r : Result) (s : State) : (s.succeed r).draws = s.draws := rfl
@[simp] theorem succeed_hostCache (r : Result) (s : State) : (s.succeed r).hostCache = s.hostCache := rfl
@[simp] theorem succeed_response_result (r : Result) (s : State) : (s.succeed r).response.result = some r := rfl
@[simp] theorem succeed_response_warnings (r : Result) (s : State) : (s.succeed r).response.warnings = flagSet s.response.warnings := rfl
@[simp] theorem succeed_response_error (r : Result) (s : State) : (s.succeed r).response.error = none := rfl
@[simp] theorem succeed_response_sent (r : Result) (s : State) : (s.succeed r).response.sent = s.response.sent := rfl
@[simp] theorem succeed_response_lines (r : Result) (s : State) : (s.succeed r).response.lines = s.response.lines := rfl
@[simp] theorem succeed_response_probes (r : Result) (s : State) : (s.succeed r).response.probes = s.response.probes := rfl
@[simp] theorem succeed_pdefAt (r : Result) (s : State) (ch a : Nat) : (s.succeed r).pdefAt ch a = s.pdefAt ch a := rfl
@[simp] theorem succeed_sampleAt (r : Result) (s : State) (ch a : Nat) : (s.succeed r).sampleAt ch a = s.sampleAt ch a := rfl
@[simp] theorem succeed_dcAt (r : Result) (s : State) (a : Nat) : (s.succeed r).dcAt a = s.dcAt a := rfl
@[simp] theorem succeed_miscAt (r : Result) (s : State) (a : Nat) : (s.succeed r).miscAt a = s.miscAt a := rfl
@[simp] theorem succeed_targets (r : Result) (s : State) : (s.succeed r).targets = s.targets := rfl
@[simp] theorem succeed_source (r : Result) (s : State) : (s.succeed r).source = s.source := rfl
@[simp] theorem succeed_memoryWf (r : Result) (s : State) : (s.succeed r).memoryWf = s.memoryWf := rfl

/-! ### `raise` -/

@[simp] theorem raise_profile (e : OpError) (s : State) : (s.raise e).profile = s.profile := rfl
@[simp] theorem raise_program (e : OpError) (s : State) : (s.raise e).program = s.program := rfl
@[simp] theorem raise_pc (e : OpError) (s : State) : (s.raise e).pc = s.pc := rfl
@[simp] theorem raise_pdef (e : OpError) (s : State) : (s.raise e).pdef = s.pdef := rfl
@[simp] theorem raise_wram (e : OpError) (s : State) : (s.raise e).wram = s.wram := rfl
@[simp] theorem raise_dcreg (e : OpError) (s : State) : (s.raise e).dcreg = s.dcreg := rfl
@[simp] theorem raise_misc (e : OpError) (s : State) : (s.raise e).misc = s.misc := rfl
@[simp] theorem raise_staged (e : OpError) (s : State) : (s.raise e).staged = s.staged := rfl
@[simp] theorem raise_chsel (e : OpError) (s : State) : (s.raise e).chsel = s.chsel := rfl
@[simp] theorem raise_epoch (e : OpError) (s : State) : (s.raise e).epoch = s.epoch := rfl
@[simp] theorem raise_draws (e : OpError) (s : State) : (s.raise e).draws = s.draws := rfl
@[simp] theorem raise_hostCache (e : OpError) (s : State) : (s.raise e).hostCache = s.hostCache := rfl
@[simp] theorem raise_response_result (e : OpError) (s : State) : (s.raise e).response.result = none := rfl
@[simp] theorem raise_response_warnings (e : OpError) (s : State) : (s.raise e).response.warnings = [] := rfl
@[simp] theorem raise_response_error (e : OpError) (s : State) : (s.raise e).response.error = some e := rfl
@[simp] theorem raise_response_sent (e : OpError) (s : State) : (s.raise e).response.sent = s.response.sent := rfl
@[simp] theorem raise_response_lines (e : OpError) (s : State) : (s.raise e).response.lines = s.response.lines := rfl
@[simp] theorem raise_response_probes (e : OpError) (s : State) : (s.raise e).response.probes = s.response.probes := rfl
@[simp] theorem raise_pdefAt (e : OpError) (s : State) (ch a : Nat) : (s.raise e).pdefAt ch a = s.pdefAt ch a := rfl
@[simp] theorem raise_sampleAt (e : OpError) (s : State) (ch a : Nat) : (s.raise e).sampleAt ch a = s.sampleAt ch a := rfl
@[simp] theorem raise_dcAt (e : OpError) (s : State) (a : Nat) : (s.raise e).dcAt a = s.dcAt a := rfl
@[simp] theorem raise_miscAt (e : OpError) (s : State) (a : Nat) : (s.raise e).miscAt a = s.miscAt a := rfl
@[simp] theorem raise_targets (e : OpError) (s : State) : (s.raise e).targets = s.targets := rfl
@[simp] theorem raise_source (e : OpError) (s : State) : (s.raise e).source = s.source := rfl
@[simp] theorem raise_memoryWf (e : OpError) (s : State) : (s.raise e).memoryWf = s.memoryWf := rfl

/-! ### `exchange` -/

@[simp] theorem exchange_profile (f : Frame) (d : List Line) (s : State) : (exchange f d s).profile = s.profile := rfl
@[simp] theorem exchange_program (f : Frame) (d : List Line) (s : State) : (exchange f d s).program = s.program := rfl
@[simp] theorem exchange_pc (f : Frame) (d : List Line) (s : State) : (exchange f d s).pc = s.pc := rfl
@[simp] theorem exchange_pdef (f : Frame) (d : List Line) (s : State) : (exchange f d s).pdef = s.pdef := rfl
@[simp] theorem exchange_wram (f : Frame) (d : List Line) (s : State) : (exchange f d s).wram = s.wram := rfl
@[simp] theorem exchange_dcreg (f : Frame) (d : List Line) (s : State) : (exchange f d s).dcreg = s.dcreg := rfl
@[simp] theorem exchange_misc (f : Frame) (d : List Line) (s : State) : (exchange f d s).misc = s.misc := rfl
@[simp] theorem exchange_staged (f : Frame) (d : List Line) (s : State) : (exchange f d s).staged = s.staged := rfl
@[simp] theorem exchange_chsel (f : Frame) (d : List Line) (s : State) : (exchange f d s).chsel = s.chsel := rfl
@[simp] theorem exchange_epoch (f : Frame) (d : List Line) (s : State) : (exchange f d s).epoch = s.epoch := rfl
@[simp] theorem exchange_draws (f : Frame) (d : List Line) (s : State) : (exchange f d s).draws = s.draws + 1 := rfl
@[simp] theorem exchange_hostCache (f : Frame) (d : List Line) (s : State) : (exchange f d s).hostCache = s.hostCache := rfl
@[simp] theorem exchange_response_result (f : Frame) (d : List Line) (s : State) : (exchange f d s).response.result = s.response.result := rfl
@[simp] theorem exchange_response_warnings (f : Frame) (d : List Line) (s : State) : (exchange f d s).response.warnings = s.response.warnings ++ s.deviceErrors.map .deviceError := rfl
@[simp] theorem exchange_response_error (f : Frame) (d : List Line) (s : State) : (exchange f d s).response.error = s.response.error := rfl
@[simp] theorem exchange_response_sent (f : Frame) (d : List Line) (s : State) : (exchange f d s).response.sent = s.response.sent ++ [f] := rfl
@[simp] theorem exchange_response_lines (f : Frame) (d : List Line) (s : State) : (exchange f d s).response.lines = s.response.lines ++ d := rfl
@[simp] theorem exchange_response_probes (f : Frame) (d : List Line) (s : State) : (exchange f d s).response.probes = s.response.probes := rfl
@[simp] theorem exchange_pdefAt (f : Frame) (d : List Line) (s : State) (ch a : Nat) : (exchange f d s).pdefAt ch a = s.pdefAt ch a := rfl
@[simp] theorem exchange_sampleAt (f : Frame) (d : List Line) (s : State) (ch a : Nat) : (exchange f d s).sampleAt ch a = s.sampleAt ch a := rfl
@[simp] theorem exchange_dcAt (f : Frame) (d : List Line) (s : State) (a : Nat) : (exchange f d s).dcAt a = s.dcAt a := rfl
@[simp] theorem exchange_miscAt (f : Frame) (d : List Line) (s : State) (a : Nat) : (exchange f d s).miscAt a = s.miscAt a := rfl
@[simp] theorem exchange_targets (f : Frame) (d : List Line) (s : State) : (exchange f d s).targets = s.targets := rfl
@[simp] theorem exchange_source (f : Frame) (d : List Line) (s : State) : (exchange f d s).source = s.source := rfl
@[simp] theorem exchange_memoryWf (f : Frame) (d : List Line) (s : State) : (exchange f d s).memoryWf = s.memoryWf := rfl

/-! ### `storePdef` -/

@[simp] theorem storePdef_profile (chs : List Nat) (a : Nat) (v : Word) (s : State) : (storePdef chs a v s).profile = s.profile := rfl
@[simp] theorem storePdef_program (chs : List Nat) (a : Nat) (v : Word) (s : State) : (storePdef chs a v s).program = s.program := rfl
@[simp] theorem storePdef_pc (chs : List Nat) (a : Nat) (v : Word) (s : State) : (storePdef chs a v s).pc = s.pc := rfl
@[simp] theorem storePdef_pdef (chs : List Nat) (a : Nat) (v : Word) (s : State) : (storePdef chs a v s).pdef = writeEach chs a (keptBits s.profile a v) s.pdef := rfl
@[simp] theorem storePdef_wram (chs : List Nat) (a : Nat) (v : Word) (s : State) : (storePdef chs a v s).wram = s.wram := rfl
@[simp] theorem storePdef_dcreg (chs : List Nat) (a : Nat) (v : Word) (s : State) : (storePdef chs a v s).dcreg = s.dcreg := rfl
@[simp] theorem storePdef_misc (chs : List Nat) (a : Nat) (v : Word) (s : State) : (storePdef chs a v s).misc = s.misc := rfl
@[simp] theorem storePdef_staged (chs : List Nat) (a : Nat) (v : Word) (s : State) : (storePdef chs a v s).staged = s.staged := rfl
@[simp] theorem storePdef_chsel (chs : List Nat) (a : Nat) (v : Word) (s : State) : (storePdef chs a v s).chsel = s.chsel := rfl
@[simp] theorem storePdef_epoch (chs : List Nat) (a : Nat) (v : Word) (s : State) : (storePdef chs a v s).epoch = s.epoch := rfl
@[simp] theorem storePdef_draws (chs : List Nat) (a : Nat) (v : Word) (s : State) : (storePdef chs a v s).draws = s.draws := rfl
@[simp] theorem storePdef_hostCache (chs : List Nat) (a : Nat) (v : Word) (s : State) : (storePdef chs a v s).hostCache = s.hostCache := rfl
@[simp] theorem storePdef_response (chs : List Nat) (a : Nat) (v : Word) (s : State) : (storePdef chs a v s).response = s.response := rfl

/-! ### `storePair` -/

@[simp] theorem storePair_profile (chs : List Nat) (p : Nat) (pr : Nat × Nat) (s : State) : (storePair chs p pr s).profile = s.profile := rfl
@[simp] theorem storePair_program (chs : List Nat) (p : Nat) (pr : Nat × Nat) (s : State) : (storePair chs p pr s).program = s.program := rfl
@[simp] theorem storePair_pc (chs : List Nat) (p : Nat) (pr : Nat × Nat) (s : State) : (storePair chs p pr s).pc = s.pc := rfl
@[simp] theorem storePair_pdef (chs : List Nat) (p : Nat) (pr : Nat × Nat) (s : State) : (storePair chs p pr s).pdef = s.pdef := rfl
@[simp] theorem storePair_wram (chs : List Nat) (p : Nat) (pr : Nat × Nat) (s : State) : (storePair chs p pr s).wram = writePairs chs p pr s.wram := rfl
@[simp] theorem storePair_dcreg (chs : List Nat) (p : Nat) (pr : Nat × Nat) (s : State) : (storePair chs p pr s).dcreg = s.dcreg := rfl
@[simp] theorem storePair_misc (chs : List Nat) (p : Nat) (pr : Nat × Nat) (s : State) : (storePair chs p pr s).misc = s.misc := rfl
@[simp] theorem storePair_staged (chs : List Nat) (p : Nat) (pr : Nat × Nat) (s : State) : (storePair chs p pr s).staged = s.staged := rfl
@[simp] theorem storePair_chsel (chs : List Nat) (p : Nat) (pr : Nat × Nat) (s : State) : (storePair chs p pr s).chsel = s.chsel := rfl
@[simp] theorem storePair_epoch (chs : List Nat) (p : Nat) (pr : Nat × Nat) (s : State) : (storePair chs p pr s).epoch = s.epoch := rfl
@[simp] theorem storePair_draws (chs : List Nat) (p : Nat) (pr : Nat × Nat) (s : State) : (storePair chs p pr s).draws = s.draws := rfl
@[simp] theorem storePair_hostCache (chs : List Nat) (p : Nat) (pr : Nat × Nat) (s : State) : (storePair chs p pr s).hostCache = s.hostCache := rfl
@[simp] theorem storePair_response (chs : List Nat) (p : Nat) (pr : Nat × Nat) (s : State) : (storePair chs p pr s).response = s.response := rfl

/-! ### `storeDc` -/

@[simp] theorem storeDc_profile (a : Nat) (v : Word) (s : State) : (storeDc a v s).profile = s.profile := rfl
@[simp] theorem storeDc_program (a : Nat) (v : Word) (s : State) : (storeDc a v s).program = s.program := rfl
@[simp] theorem storeDc_pc (a : Nat) (v : Word) (s : State) : (storeDc a v s).pc = s.pc := rfl
@[simp] theorem storeDc_pdef (a : Nat) (v : Word) (s : State) : (storeDc a v s).pdef = s.pdef := rfl
@[simp] theorem storeDc_wram (a : Nat) (v : Word) (s : State) : (storeDc a v s).wram = s.wram := rfl
@[simp] theorem storeDc_dcreg (a : Nat) (v : Word) (s : State) : (storeDc a v s).dcreg = s.dcreg.write (0, a) v := rfl
@[simp] theorem storeDc_misc (a : Nat) (v : Word) (s : State) : (storeDc a v s).misc = s.misc := rfl
@[simp] theorem storeDc_staged (a : Nat) (v : Word) (s : State) : (storeDc a v s).staged = s.staged := rfl
@[simp] theorem storeDc_chsel (a : Nat) (v : Word) (s : State) : (storeDc a v s).chsel = s.chsel := rfl
@[simp] theorem storeDc_epoch (a : Nat) (v : Word) (s : State) : (storeDc a v s).epoch = s.epoch := rfl
@[simp] theorem storeDc_draws (a : Nat) (v : Word) (s : State) : (storeDc a v s).draws = s.draws := rfl
@[simp] theorem storeDc_hostCache (a : Nat) (v : Word) (s : State) : (storeDc a v s).hostCache = s.hostCache := rfl
@[simp] theorem storeDc_response (a : Nat) (v : Word) (s : State) : (storeDc a v s).response = s.response := rfl

/-! ### `storeMisc` -/

@[simp] theorem storeMisc_profile (a : Nat) (v : Word) (s : State) : (storeMisc a v s).profile = s.profile := rfl
@[simp] theorem storeMisc_program (a : Nat) (v : Word) (s : State) : (storeMisc a v s).program = s.program := rfl
@[simp] theorem storeMisc_pc (a : Nat) (v : Word) (s : State) : (storeMisc a v s).pc = s.pc := rfl
@[simp] theorem storeMisc_pdef (a : Nat) (v : Word) (s : State) : (storeMisc a v s).pdef = s.pdef := rfl
@[simp] theorem storeMisc_wram (a : Nat) (v : Word) (s : State) : (storeMisc a v s).wram = s.wram := rfl
@[simp] theorem storeMisc_dcreg (a : Nat) (v : Word) (s : State) : (storeMisc a v s).dcreg = s.dcreg := rfl
@[simp] theorem storeMisc_misc (a : Nat) (v : Word) (s : State) : (storeMisc a v s).misc = s.misc.write (0, a) v := rfl
@[simp] theorem storeMisc_staged (a : Nat) (v : Word) (s : State) : (storeMisc a v s).staged = s.staged := rfl
@[simp] theorem storeMisc_chsel (a : Nat) (v : Word) (s : State) : (storeMisc a v s).chsel = s.chsel := rfl
@[simp] theorem storeMisc_epoch (a : Nat) (v : Word) (s : State) : (storeMisc a v s).epoch = s.epoch := rfl
@[simp] theorem storeMisc_draws (a : Nat) (v : Word) (s : State) : (storeMisc a v s).draws = s.draws := rfl
@[simp] theorem storeMisc_hostCache (a : Nat) (v : Word) (s : State) : (storeMisc a v s).hostCache = s.hostCache := rfl
@[simp] theorem storeMisc_response (a : Nat) (v : Word) (s : State) : (storeMisc a v s).response = s.response := rfl

/-! ### `resetBlock` -/

@[simp] theorem resetBlock_profile (s : State) : (resetBlock s).profile = s.profile := rfl
@[simp] theorem resetBlock_program (s : State) : (resetBlock s).program = s.program := rfl
@[simp] theorem resetBlock_pc (s : State) : (resetBlock s).pc = s.pc := rfl
@[simp] theorem resetBlock_pdef (s : State) : (resetBlock s).pdef = [] := rfl
@[simp] theorem resetBlock_wram (s : State) : (resetBlock s).wram = [] := rfl
@[simp] theorem resetBlock_dcreg (s : State) : (resetBlock s).dcreg = [] := rfl
@[simp] theorem resetBlock_misc (s : State) : (resetBlock s).misc = [] := rfl
@[simp] theorem resetBlock_staged (s : State) : (resetBlock s).staged = none := rfl
@[simp] theorem resetBlock_chsel (s : State) : (resetBlock s).chsel = none := rfl
@[simp] theorem resetBlock_epoch (s : State) : (resetBlock s).epoch = s.draws := rfl
@[simp] theorem resetBlock_draws (s : State) : (resetBlock s).draws = s.draws := rfl
@[simp] theorem resetBlock_hostCache (s : State) : (resetBlock s).hostCache = s.hostCache := rfl
@[simp] theorem resetBlock_response (s : State) : (resetBlock s).response = s.response := rfl

/-! ### `advance` -/

@[simp] theorem advance_profile (s : State) : (s.advance).profile = s.profile := rfl
@[simp] theorem advance_program (s : State) : (s.advance).program = s.program := rfl
@[simp] theorem advance_pc (s : State) : (s.advance).pc = s.pc + 1 := rfl
@[simp] theorem advance_pdef (s : State) : (s.advance).pdef = s.pdef := rfl
@[simp] theorem advance_wram (s : State) : (s.advance).wram = s.wram := rfl
@[simp] theorem advance_dcreg (s : State) : (s.advance).dcreg = s.dcreg := rfl
@[simp] theorem advance_misc (s : State) : (s.advance).misc = s.misc := rfl
@[simp] theorem advance_staged (s : State) : (s.advance).staged = s.staged := rfl
@[simp] theorem advance_chsel (s : State) : (s.advance).chsel = s.chsel := rfl
@[simp] theorem advance_epoch (s : State) : (s.advance).epoch = s.epoch := rfl
@[simp] theorem advance_draws (s : State) : (s.advance).draws = s.draws := rfl
@[simp] theorem advance_hostCache (s : State) : (s.advance).hostCache = s.hostCache := rfl
@[simp] theorem advance_response (s : State) : (s.advance).response = s.response := rfl
@[simp] theorem advance_pdefAt (s : State) (ch a : Nat) : (s.advance).pdefAt ch a = s.pdefAt ch a := rfl
@[simp] theorem advance_sampleAt (s : State) (ch a : Nat) : (s.advance).sampleAt ch a = s.sampleAt ch a := rfl
@[simp] theorem advance_dcAt (s : State) (a : Nat) : (s.advance).dcAt a = s.dcAt a := rfl
@[simp] theorem advance_miscAt (s : State) (a : Nat) : (s.advance).miscAt a = s.miscAt a := rfl
@[simp] theorem advance_targets (s : State) : (s.advance).targets = s.targets := rfl
@[simp] theorem advance_source (s : State) : (s.advance).source = s.source := rfl
@[simp] theorem advance_memoryWf (s : State) : (s.advance).memoryWf = s.memoryWf := rfl

/-! ### What the readers of the state look at -/

theorem pdefAt_congr {s t : State} (h : t.pdef = s.pdef) (he : t.epoch = s.epoch) (ch a : Nat) :
    t.pdefAt ch a = s.pdefAt ch a := by
  simp only [State.pdefAt, h, he]

theorem sampleAt_congr {s t : State} (h : t.wram = s.wram) (he : t.epoch = s.epoch)
    (hp : t.profile = s.profile) (ch a : Nat) : t.sampleAt ch a = s.sampleAt ch a := by
  simp only [State.sampleAt, h, he, hp]

theorem dcAt_congr {s t : State} (h : t.dcreg = s.dcreg) (he : t.epoch = s.epoch) (a : Nat) :
    t.dcAt a = s.dcAt a := by
  simp only [State.dcAt, h, he]

theorem miscAt_congr {s t : State} (h : t.misc = s.misc) (he : t.epoch = s.epoch) (a : Nat) :
    t.miscAt a = s.miscAt a := by
  simp only [State.miscAt, h, he]

theorem targets_congr {s t : State} (h : t.chsel = s.chsel) (hp : t.profile = s.profile) :
    t.targets = s.targets := by
  simp only [State.targets, h, hp]

theorem source_congr {s t : State} (h : t.chsel = s.chsel) : t.source = s.source := by
  simp only [State.source, h]

end Sys2Proof.Machine
end

