-- ==== Sys2Proof/Laws/Ops.lean ====
section
/-! SUPPORT. One lemma for each shared operation that says once everything it can do: the readers of the state
after a store, the flags as a set, the two ways an operation runs, and the device commands. -/

namespace Sys2Proof.Machine

open Sys2Proof

/-! ### What a reader sees after a store -/

theorem storePdef_pdefAt (chs : List Nat) (a : Nat) (v : Word) (s : State) (ch b : Nat) :
    (storePdef chs a v s).pdefAt ch b =
      if ch ∈ chs ∧ b = a then keptBits s.profile a v else s.pdefAt ch b := by
  simp only [State.pdefAt, storePdef, read_writeEach]
  by_cases h : ch ∈ chs ∧ b = a
  · rw [if_pos h, if_pos h]
  · rw [if_neg h, if_neg h]

theorem storePair_sampleAt (chs : List Nat) (p : Nat) (pair : Nat × Nat) (s : State) (ch b : Nat) :
    (storePair chs p pair s).sampleAt ch b =
      if ch ∈ chs ∧ b = 2 * p then pair.1
      else if ch ∈ chs ∧ b = 2 * p + 1 then pair.2
      else s.sampleAt ch b := by
  simp only [State.sampleAt, storePair, read_writePairs]
  by_cases h : ch ∈ chs ∧ b = 2 * p
  · rw [if_pos h, if_pos h]
  · rw [if_neg h, if_neg h]
    by_cases h' : ch ∈ chs ∧ b = 2 * p + 1
    · rw [if_pos h', if_pos h']
    · rw [if_neg h', if_neg h']

theorem storeDc_dcAt (a : Nat) (v : Word) (s : State) (b : Nat) :
    (storeDc a v s).dcAt b = if b = a then v else s.dcAt b := by
  simp only [State.dcAt, storeDc, Cells.read_write]
  by_cases h : b = a <;> simp [h]

theorem storeMisc_miscAt (a : Nat) (v : Word) (s : State) (b : Nat) :
    (storeMisc a v s).miscAt b = if b = a then v else s.miscAt b := by
  simp only [State.miscAt, storeMisc, Cells.read_write]
  by_cases h : b = a <;> simp [h]

@[simp] theorem storePdef_sampleAt (chs : List Nat) (a : Nat) (v : Word) (s : State) (ch b : Nat) :
    (storePdef chs a v s).sampleAt ch b = s.sampleAt ch b := rfl
@[simp] theorem storePdef_dcAt (chs : List Nat) (a : Nat) (v : Word) (s : State) (b : Nat) :
    (storePdef chs a v s).dcAt b = s.dcAt b := rfl
@[simp] theorem storePdef_miscAt (chs : List Nat) (a : Nat) (v : Word) (s : State) (b : Nat) :
    (storePdef chs a v s).miscAt b = s.miscAt b := rfl
@[simp] theorem storePair_pdefAt (chs : List Nat) (p : Nat) (pr : Nat × Nat) (s : State) (ch b : Nat) :
    (storePair chs p pr s).pdefAt ch b = s.pdefAt ch b := rfl
@[simp] theorem storePair_dcAt (chs : List Nat) (p : Nat) (pr : Nat × Nat) (s : State) (b : Nat) :
    (storePair chs p pr s).dcAt b = s.dcAt b := rfl
@[simp] theorem storePair_miscAt (chs : List Nat) (p : Nat) (pr : Nat × Nat) (s : State) (b : Nat) :
    (storePair chs p pr s).miscAt b = s.miscAt b := rfl
@[simp] theorem storeDc_pdefAt (a : Nat) (v : Word) (s : State) (ch b : Nat) :
    (storeDc a v s).pdefAt ch b = s.pdefAt ch b := rfl
@[simp] theorem storeDc_sampleAt (a : Nat) (v : Word) (s : State) (ch b : Nat) :
    (storeDc a v s).sampleAt ch b = s.sampleAt ch b := rfl
@[simp] theorem storeDc_miscAt (a : Nat) (v : Word) (s : State) (b : Nat) :
    (storeDc a v s).miscAt b = s.miscAt b := rfl
@[simp] theorem storeMisc_pdefAt (a : Nat) (v : Word) (s : State) (ch b : Nat) :
    (storeMisc a v s).pdefAt ch b = s.pdefAt ch b := rfl
@[simp] theorem storeMisc_sampleAt (a : Nat) (v : Word) (s : State) (ch b : Nat) :
    (storeMisc a v s).sampleAt ch b = s.sampleAt ch b := rfl
@[simp] theorem storeMisc_dcAt (a : Nat) (v : Word) (s : State) (b : Nat) :
    (storeMisc a v s).dcAt b = s.dcAt b := rfl

/-! ### The bits a register keeps, and the bits a sample has -/

/-- Keeping the bits of a register twice is keeping them once (R30). -/
@[simp] theorem keptBits_keptBits (P : Profile) (a : Nat) (v : Word) :
    keptBits P a (keptBits P a v) = keptBits P a v := by
  simp only [keptBits]
  split
  · rfl
  · rw [BitVec.and_assoc, BitVec.and_self]

theorem field_lt (w : Word) (lo width : Nat) : field w lo width < 2 ^ width :=
  Nat.mod_lt _ (Nat.two_pow_pos width)

/-- The fields of a pair word have `ADDR_BITS` bits (R94). -/
theorem unpairWord_lt (P : Profile) (w : Word) :
    (unpairWord P w).1 < 2 ^ P.addrBits ∧ (unpairWord P w).2 < 2 ^ P.addrBits := by
  simp only [unpairWord]
  cases P.pairOrder <;> exact ⟨field_lt _ _ _, field_lt _ _ _⟩

/-- The pair at a WAVE register address is below half the capacity, and the address is its own (R42). -/
theorem pairAt_some {P : Profile} {a p : Nat} (h : pairAt P a = some p) :
    p < P.waveRamCapacity / 2 ∧ a = waveRegAddr P p := by
  simp only [pairAt, waveRegAddr] at *
  cases hm : P.waveAddrMode <;> simp only [hm] at h ⊢
  · split at h <;> simp_all
  · split at h
    · obtain rfl := Option.some.inj h
      omega
    · simp at h

theorem pairAt_waveRegAddr {P : Profile} {p : Nat} (h : p < P.waveRamCapacity / 2) :
    pairAt P (waveRegAddr P p) = some p := by
  unfold pairAt waveRegAddr
  cases hm : P.waveAddrMode <;> simp [h]

/-! ### The flags as a set (R14) -/

@[simp] theorem mem_flagSet (ws : List Warning) (w : Warning) : w ∈ flagSet ws ↔ w ∈ ws := by
  induction ws with
  | nil => simp [flagSet]
  | cons v ws ih =>
    simp only [flagSet, List.mem_cons, List.mem_filter, ih, decide_eq_true_eq]
    tauto

theorem nodup_flagSet (ws : List Warning) : (flagSet ws).Nodup := by
  induction ws with
  | nil => exact .nil
  | cons v ws ih =>
    simp only [flagSet, List.nodup_cons, List.mem_filter, decide_eq_true_eq]
    exact ⟨by simp, ih.filter _⟩

/-! ### The two ways an operation runs -/

/-- A function operation with a value answers it, with its flags, and changes nothing else (R18). -/
theorem runFunction_ok (s : State) (r : Result) (ws : List Warning) :
    ∃ t, runFunction (.ok (r, ws)) s = .next t ∧ Returns t r ∧ Flags t ws ∧ FunctionFrame s t := by
  refine ⟨_, rfl, ⟨rfl, rfl⟩, fun w => ?_, ?_⟩
  · simp [Response.blank]
  · exact ⟨⟨rfl, rfl, rfl⟩, ⟨⟨fun _ _ => rfl, fun _ _ => rfl⟩, ⟨fun _ => rfl, fun _ => rfl⟩, rfl, rfl⟩,
      rfl, ⟨rfl, rfl⟩⟩

/-- A function operation with an error answers it, and changes nothing else (R18, R154). -/
theorem runFunction_error (s : State) (e : OpError) :
    ∃ t, runFunction (.error e) s = .next t ∧ EndsInError t e ∧ FunctionFrame s t :=
  ⟨_, rfl, ⟨rfl, rfl, rfl⟩, ⟨⟨rfl, rfl, rfl⟩,
    ⟨⟨fun _ _ => rfl, fun _ _ => rfl⟩, ⟨fun _ => rfl, fun _ => rfl⟩, rfl, rfl⟩, rfl, ⟨rfl, rfl⟩⟩⟩

/-- Whatever a function operation's value is, it completes with it. -/
theorem runFunction_next {f : Except OpError (Result × List Warning)} {s t : State}
    (h : runFunction f s = .next t) :
    (∃ r ws, f = .ok (r, ws) ∧ t = (s.start.warn ws).succeed r)
      ∨ (∃ e, f = .error e ∧ t = s.start.raise e) := by
  rcases f with e | ⟨r, ws⟩
  · exact .inr ⟨e, rfl, by simpa [runFunction] using h.symm⟩
  · exact .inl ⟨r, ws, rfl, by simpa [runFunction] using h.symm⟩

/-- A command that completes has run from a blank response to an ending. -/
theorem runCommand_next {f : State → Except Refusal Ending} {s t : State}
    (h : runCommand f s = .next t) : ∃ e, f s.start = .ok e ∧ t = e.close := by
  simp only [runCommand] at h
  split at h
  · rename_i e he; exact ⟨e, he, by simpa using h.symm⟩
  · cases h

/-- A command that is not refused completes. -/
theorem runCommand_of_ok {f : State → Except Refusal Ending} {s : State} {e : Ending}
    (h : f s.start = .ok e) : runCommand f s = .next e.close := by
  simp only [runCommand, h]

theorem runCommand_of_error {f : State → Except Refusal Ending} {s : State} {r : Refusal}
    (h : f s.start = .error r) : runCommand f s = .refused r := by
  simp only [runCommand, h]

theorem written_ok {x : Except Refusal State} {e : Ending} (h : written x = .ok e) :
    ∃ t, x = .ok t ∧ e = .done .done t := by
  rcases x with r | t
  · cases h
  · exact ⟨t, rfl, by simpa [written] using h.symm⟩

theorem readResult_ok {x : Except Refusal (Word × State)} {e : Ending} (h : readResult x = .ok e) :
    ∃ w t, x = .ok (w, t) ∧ e = .done (.word w) t := by
  rcases x with r | ⟨w, t⟩
  · cases h
  · exact ⟨w, t, rfl, by simpa [readResult] using h.symm⟩

/-! ### The channels a command reaches (R115) -/

theorem targets_ok {s : State} (h : s.chsel ≠ none) : ∃ chs, s.targets = .ok chs := by
  simp only [State.targets]
  split
  · contradiction
  · exact ⟨_, rfl⟩
  · exact ⟨_, rfl⟩

theorem mem_targets {s : State} {chs : List Nat} (h : s.targets = .ok chs) (ch : Nat) :
    ch ∈ chs ↔ Reached s ch := by
  simp only [State.targets] at h
  split at h
  · cases h
  · rename_i c hc
    cases h
    simp [Reached, hc, eq_comm]
  · rename_i hc
    cases h
    simp [Reached, hc]

theorem source_ok {s : State} {c : Nat} (h : s.chsel = some (.one c)) : s.source = .ok c := by
  simp only [State.source, h]

theorem source_inv {s : State} {c : Nat} (h : s.source = .ok c) : s.chsel = some (.one c) := by
  simp only [State.source] at h
  split at h <;> simp_all

/-! ### The device commands -/

/-- What a write to an address of a space can do (R117 to R120). -/
theorem storeAt_ok {space : Space} {a : Nat} {v : Word} {s t : State} (h : storeAt space a v s = .ok t) :
    (space = .pdef ∧ a < 4 * s.profile.nSlots
      ∧ ∃ chs, s.targets = .ok chs ∧ t = storePdef chs a v s)
    ∨ (space = .wave ∧ ∃ p chs, pairAt s.profile a = some p ∧ s.targets = .ok chs
        ∧ t = storePair chs p (unpairWord s.profile v) s)
    ∨ (space = .dc ∧ t = storeDc a v s)
    ∨ (space = .misc ∧ t = storeMisc a v s) := by
  cases space with
  | pdef =>
    simp only [storeAt, storeAtPdef] at h
    split at h
    · cases h
    · rename_i ha
      split at h
      · cases h
      · rename_i chs hc
        exact .inl ⟨rfl, by omega, chs, hc, by simpa using h.symm⟩
  | wave =>
    simp only [storeAt, storeAtWave] at h
    split at h
    · cases h
    · rename_i p hp
      split at h
      · cases h
      · rename_i chs hc
        exact .inr (.inl ⟨rfl, p, chs, hp, hc, by simpa using h.symm⟩)
  | dc => exact .inr (.inr (.inl ⟨rfl, by simpa [storeAt] using h.symm⟩))
  | misc => exact .inr (.inr (.inr ⟨rfl, by simpa [storeAt] using h.symm⟩))

/-- A write to an address of a space touches neither the host's side, nor the response, nor what is staged or
selected, nor the draws. -/
theorem storeAt_keeps {space : Space} {a : Nat} {v : Word} {s t : State}
    (h : storeAt space a v s = .ok t) :
    t.profile = s.profile ∧ t.program = s.program ∧ t.pc = s.pc ∧ t.staged = s.staged
      ∧ t.chsel = s.chsel ∧ t.epoch = s.epoch ∧ t.draws = s.draws ∧ t.hostCache = s.hostCache
      ∧ t.response = s.response := by
  rcases storeAt_ok h with ⟨-, -, chs, -, rfl⟩ | ⟨-, p, chs, -, -, rfl⟩ | ⟨-, rfl⟩ | ⟨-, rfl⟩ <;>
    simp

theorem devStage_ok {v : Word} {s t : State} (h : devStage v s = .ok t) :
    s.profile.protoRev = .legacy
      ∧ t = exchange (frame1 s.profile .dataset v.toNat) [] { s with staged := some v } := by
  simp only [devStage] at h
  split at h
  · cases h
  · rename_i hp; exact ⟨hp, by simpa using h.symm⟩

theorem devCommit_ok {space : Space} {a : Addr} {s t : State} (h : devCommit space a s = .ok t) :
    s.profile.protoRev = .legacy
      ∧ ∃ u, storeAt space a.toNat s.committed s = .ok u
        ∧ t = exchange (frame1 s.profile (writeCmd space) a.toNat) [] { u with staged := none } := by
  simp only [devCommit] at h
  split at h
  · cases h
  · rename_i hp
    split at h
    · cases h
    · rename_i u hu; exact ⟨hp, u, hu, by simpa using h.symm⟩

theorem devUwrite_ok {space : Space} {w : Word48} {s t : State} (h : devUwrite space w s = .ok t) :
    s.profile.protoRev = .unified
      ∧ ∃ u, storeAt space (word48Address w).toNat (word48Value w) s = .ok u
        ∧ t = exchange (frame1 s.profile (writeCmd space) w.toNat) [] u := by
  simp only [devUwrite] at h
  split at h
  · cases h
  · rename_i hp
    split at h
    · cases h
    · rename_i u hu; exact ⟨hp, u, hu, by simpa using h.symm⟩

theorem answered_ok {c : Cmd} {a : Addr} {s t : State} {x : Except Refusal Word} {w : Word}
    (h : answered c a s x = .ok (w, t)) :
    x = .ok w ∧ t = exchange (frame1 s.profile c a.toNat) [dataLine [w.toNat]] s := by
  rcases x with r | v
  · cases h
  · simp only [answered, Except.ok.injEq, Prod.mk.injEq] at h
    obtain ⟨rfl, rfl⟩ := h
    exact ⟨rfl, rfl⟩

theorem loadPdef_ok {a : Nat} {s : State} {w : Word} (h : loadPdef a s = .ok w) :
    a < 4 * s.profile.nSlots ∧ ∃ c, s.chsel = some (.one c) ∧ w = s.pdefAt c a := by
  simp only [loadPdef] at h
  split at h
  · cases h
  · rename_i ha
    split at h
    · cases h
    · rename_i c hc; exact ⟨by omega, c, source_inv hc, by simpa using h.symm⟩

theorem loadWave_ok {a : Nat} {s : State} {w : Word} (h : loadWave a s = .ok w) :
    ∃ p c, pairAt s.profile a = some p ∧ s.chsel = some (.one c)
      ∧ w = pairWord s.profile (s.sampleAt c (2 * p)) (s.sampleAt c (2 * p + 1)) := by
  simp only [loadWave] at h
  split at h
  · cases h
  · rename_i p hp
    split at h
    · cases h
    · rename_i c hc; exact ⟨p, c, hp, source_inv hc, by simpa using h.symm⟩

/-- What a selection can do (R124). -/
theorem devChsel_ok {c : Nat} {s t : State} (h : devChsel c s = .ok t) :
    ∃ sel, selectionOf s.profile c = some sel
      ∧ t = exchange (frame1 s.profile .chsel c) [] { s with chsel := some sel } := by
  simp only [devChsel] at h
  split at h
  · cases h
  · rename_i sel hs; exact ⟨sel, hs, by simpa using h.symm⟩

theorem selectionOf_valid {P : Profile} {c : Nat} {sel : Selection} (h : selectionOf P c = some sel) :
    selectionValid P (some sel) := by
  intro c' hc
  simp only [selectionOf] at h
  split at h
  · simp_all
  · split at h <;> simp_all

theorem selectAndRecord_ok {c : Nat} {s t : State} (h : selectAndRecord c s = .ok t) :
    ∃ u, devChsel c s = .ok u ∧ t = { u with hostCache := u.chsel } := by
  simp only [selectAndRecord] at h
  split at h
  · cases h
  · rename_i u hu; exact ⟨u, hu, by simpa using h.symm⟩

/-! ### The composite sequences -/

/-- One register write is the stage and the commit, or the unified write (R130). -/
theorem regWrite_ok {space : Space} {a v : Nat} {s t : State} (h : regWrite space a v s = .ok t) :
    (s.profile.protoRev = .legacy ∧ ∃ u, devStage (BitVec.ofNat 32 v) s = .ok u
        ∧ devCommit space (BitVec.ofNat 16 a) u = .ok t)
    ∨ (s.profile.protoRev = .unified ∧ devUwrite space (packWord48 a v) s = .ok t) := by
  simp only [regWrite] at h
  split at h
  · rename_i hp
    split at h
    · cases h
    · rename_i u hu; exact .inl ⟨hp, u, hu, h⟩
  · rename_i hp; exact .inr ⟨hp, h⟩

theorem regWrites_cons {space : Space} {a : Nat} {v : Word} {ws : List (Nat × Word)} {s t : State} :
    regWrites space ((a, v) :: ws) s = .ok t ↔
      ∃ u, regWrite space a v.toNat s = .ok u ∧ regWrites space ws u = .ok t := by
  simp only [regWrites]
  split <;> rename_i h <;> simp [h]

/-- The four reads of a slot, in order (R132). -/
theorem readQuad_ok {e : Nat} {s t : State} {q : Word × Word × Word × Word}
    (h : readQuad e s = .ok (q, t)) :
    ∃ s₀ s₁ s₂, devReadPdef (BitVec.ofNat 16 (4 * e)) s = .ok (q.1, s₀)
      ∧ devReadPdef (BitVec.ofNat 16 (4 * e + 1)) s₀ = .ok (q.2.1, s₁)
      ∧ devReadPdef (BitVec.ofNat 16 (4 * e + 2)) s₁ = .ok (q.2.2.1, s₂)
      ∧ devReadPdef (BitVec.ofNat 16 (4 * e + 3)) s₂ = .ok (q.2.2.2, t) := by
  simp only [readQuad] at h
  split at h
  · cases h
  rename_i r0 s0 h0
  split at h
  · cases h
  rename_i r1 s1 h1
  split at h
  · cases h
  rename_i r2 s2 h2
  split at h
  · cases h
  rename_i r3 s3 h3
  simp only [Except.ok.injEq, Prod.mk.injEq] at h
  obtain ⟨rfl, rfl⟩ := h
  exact ⟨s0, s1, s2, h0, h1, h2, h3⟩

/-- What `WRITEPDEF` can do: an error of `ENCPDEF` at the slot chosen, in the state it started in with the reads of the scan
aside, or the four register writes of that slot (R131, R154). -/
theorem writePdef_ok {w : WaveOperand} {st : Nat} {g f : Rat} {su : Nat} {entry : Option Nat} {s : State}
    {e : Ending} (h : writePdef w st g f su entry s = .ok e) :
    ∃ n t, chooseSlot entry s = .ok (n, t) ∧
      ((∃ err, encodePdef s.profile n st w g f su = .error err ∧ e = .failed err (s.probedTo t))
        ∨ ∃ u writes ws, encodePdef s.profile n st w g f su = .ok (writes, ws)
            ∧ regWrites .pdef writes (t.warn ws) = .ok u ∧ e = .done (.slot n) u) := by
  simp only [writePdef] at h
  split at h
  · cases h
  rename_i n t hc
  refine ⟨n, t, hc, ?_⟩
  split at h
  · rename_i err he; exact .inl ⟨err, he, by cases h; rfl⟩
  rename_i writes ws hw
  split at h
  · cases h
  rename_i u hu
  exact .inr ⟨u, writes, ws, hw, hu, by cases h; rfl⟩

/-- Where the operands do not encode at the slot chosen, `WRITEPDEF` fails as `ENCPDEF` does, and leaves the block
as it was. -/
theorem writePdef_error {w : WaveOperand} {st : Nat} {g f : Rat} {su n : Nat} {entry : Option Nat} {s t : State}
    {err : OpError} (hc : chooseSlot entry s = .ok (n, t))
    (h : encodePdef s.profile n st w g f su = .error err) :
    writePdef w st g f su entry s = .ok (.failed err (s.probedTo t)) := by
  simp only [writePdef, hc, h]

/-- What `READERRS` can do: the query and its reports, or an error with the query aside (R137, R154). -/
theorem readErrors_ok {s : State} {e : Ending} (h : readErrors s = .ok e) :
    (∃ rs, decodeErrors s.profile s.errorMapping = .ok rs ∧ e = .done (.counted rs rs.length) (devErrq s))
    ∨ ∃ err, decodeErrors s.profile s.errorMapping = .error err ∧ e = .failed err (s.probedTo (devErrq s)) := by
  simp only [readErrors] at h
  split at h
  · rename_i err he; exact .inr ⟨err, he, by cases h; rfl⟩
  · rename_i rs he; exact .inl ⟨rs, he, by cases h; rfl⟩

/-! ### The checks and the words of `ENCPDEF` -/

/-- The range checks do not depend on the entry: `PULSE_START_MIN` fits its field (R6, R101, R103). -/
theorem pdefChecks_slot {P : Profile} (hP : P.WF) (e e' st : Nat) (w : WaveOperand) (g f : Rat) (su : Nat) :
    pdefChecks P e st w g f su = pdefChecks P e' st w g f su := by
  have h : ∀ n, checkMax .start (substStart P n st) 0xFFFFFF = checkMax .start st 0xFFFFFF := by
    intro n
    have := hP.startMin_le
    simp only [substStart]
    split
    · rename_i hn
      have h1 : decide (P.pulseStartMin ≤ 0xFFFFFF) = true := decide_eq_true this
      have h2 : decide (st ≤ 0xFFFFFF) = true := decide_eq_true (by omega)
      simp only [checkMax, check, h1, h2, if_true]
    · rfl
  simp only [pdefChecks, h]

/-- An error of `ENCPDEF` at one existing slot is its error at every other (R102, R103). -/
theorem encodePdef_error_slot {P : Profile} (hP : P.WF) {e e' st : Nat} {w : WaveOperand} {g f : Rat} {su : Nat}
    {err : OpError} (he : e < P.nSlots) (he' : e' < P.nSlots) (h : encodePdef P e st w g f su = .error err) :
    encodePdef P e' st w g f su = .error err := by
  simp only [encodePdef, if_neg (Nat.not_le.2 he), if_neg (Nat.not_le.2 he'), pdefChecks_slot hP e e'] at h ⊢
  split at h
  · rename_i hw; rw [if_pos hw]; exact h
  · rename_i hw
    rw [if_neg hw]
    split at h
    · exact h
    · cases h

/-- Register `WAVE` of a pair lies within its two fields (R27, R102). -/
theorem waveWord_fields (wa wl : Nat) : waveWord (.addrLen wa wl) &&& 0x0FFF0FFF#32 = waveWord (.addrLen wa wl) := by
  apply BitVec.eq_of_getLsbD_eq
  intro i hi
  have hm : (0x0FFF0FFF#32).getLsbD i = (decide (i < 12) || (decide (16 ≤ i) && decide (i - 16 < 12))) := by
    interval_cases i <;> rfl
  rw [BitVec.getLsbD_and, hm]
  simp only [waveWord, BitVec.getLsbD_ofNat, Nat.testBit_or, Nat.testBit_shiftLeft, Nat.testBit_mod_two_pow]
  by_cases h1 : i < 12 <;> by_cases h2 : 16 ≤ i <;> by_cases h3 : i - 16 < 12 <;> simp [h1, h2, h3]

/-- The words `ENCPDEF` answers lie within the fields of their registers, so that a register keeps them whole under
either `PDEF_KEEP_UNUSED` (R26 to R30, R102). -/
theorem encodePdef_kept {P : Profile} {e st : Nat} {w : WaveOperand} {g f : Rat} {su : Nat}
    {writes : List (Nat × Word)} {ws : List Warning} (h : encodePdef P e st w g f su = .ok (writes, ws)) :
    ∀ av ∈ writes, keptBits P av.1 av.2 = av.2 := by
  simp only [encodePdef] at h
  split at h
  · cases h
  split at h
  · cases h
  rename_i hw
  split at h
  · cases h
  simp only [Except.ok.injEq, Prod.mk.injEq] at h
  obtain ⟨rfl, -⟩ := h
  have low : ∀ (n k : Nat) (m : Word), m.toNat = 2 ^ k - 1 → k ≤ 32 →
      BitVec.ofNat 32 (n % 2 ^ k) &&& m = BitVec.ofNat 32 (n % 2 ^ k) := by
    intro n k m hm hk
    apply BitVec.eq_of_toNat_eq
    have h1 : n % 2 ^ k < 2 ^ k := Nat.mod_lt _ (by positivity)
    have h2 : 2 ^ k ≤ 2 ^ 32 := Nat.pow_le_pow_right (by decide) hk
    rw [BitVec.toNat_and, hm, BitVec.toNat_ofNat, Nat.mod_eq_of_lt (by omega), Nat.and_two_pow_sub_one_eq_mod,
      Nat.mod_mod]
  have ones : ∀ v : Word, v &&& 0xFFFFFFFF#32 = v := fun v => BitVec.and_allOnes
  intro av hav
  simp only [slotWrites, List.mem_cons, List.not_mem_nil, or_false] at hav
  simp only [keptBits]
  split
  · rfl
  rcases hav with rfl | rfl | rfl | rfl
  · have : fieldMask P.waveFieldMode (4 * e + 0) = 0x00FFFFFF#32 := by
      simp only [fieldMask, show (4 * e + 0) % 4 = 0 by omega]
    rw [this]
    exact low _ 24 _ (by decide) (by decide)
  · cases hm : P.waveFieldMode <;> cases w <;> simp only [hm, waveFits, not_true_eq_false] at hw <;>
      simp only [fieldMask, show (4 * e + 1) % 4 = 1 by omega]
    · exact ones _
    · exact waveWord_fields _ _
  · have : fieldMask P.waveFieldMode (4 * e + 2) = 0xFFFFFFFF#32 := by
      simp only [fieldMask, show (4 * e + 2) % 4 = 2 by omega]
    rw [this]
    exact ones _
  · have : fieldMask P.waveFieldMode (4 * e + 3) = 0x0001FFFF#32 := by
      simp only [fieldMask, show (4 * e + 3) % 4 = 3 by omega]
    rw [this]
    exact low _ 17 _ (by decide) (by decide)

end Sys2Proof.Machine
end

