-- ==== Sys2Proof/Laws/Paths.lean ====
section
/-! SUPPORT. What a step can do, said once: every operation that completes is a path of small moves from a blank
response, each move guarded by what the operation may write (R39), and then a result or an error.  Every
invariant and every frame follows from this by an induction over the path. -/

namespace Sys2Proof.Machine

open Sys2Proof

/-- A move that an operation may make. -/
inductive Move (i : Instr) : State → State → Prop where
  | exchange (f : Frame) (d : List Line) (s : State) : Move i s (exchange f d s)
  | warn (ws : List Warning) (s : State) : Move i s (s.warn ws)
  | probe (s t : State) (h : s.draws ≤ t.draws) : Move i s (s.probedTo t)
  | pdef (chs : List Nat) (a : Nat) (v : Word) (s : State) (hi : i.writesSpace .pdef = true)
      (hc : s.targets = .ok chs) (ha : a < 4 * s.profile.nSlots) : Move i s (storePdef chs a v s)
  | wave (chs : List Nat) (p : Nat) (v : Word) (s : State) (hi : i.writesSpace .wave = true)
      (hc : s.targets = .ok chs) (hp : p < s.profile.waveRamCapacity / 2) :
      Move i s (storePair chs p (unpairWord s.profile v) s)
  | dc (a : Addr) (v : Word) (s : State) (hi : i.writesSpace .dc = true) : Move i s (storeDc a.toNat v s)
  | misc (a : Addr) (v : Word) (s : State) (hi : i.writesSpace .misc = true) :
      Move i s (storeMisc a.toNat v s)
  | stage (v : Word) (s : State) (hi : i.writesStaged = true) (hp : s.profile.protoRev = .legacy) :
      Move i s { s with staged := some v }
  | unstage (s : State) (hi : i.writesStaged = true) (hp : s.profile.protoRev = .legacy) :
      Move i s { s with staged := none }
  | select (c : Nat) (sel : Selection) (s : State) (hi : i.writesChsel = true)
      (hs : selectionOf s.profile c = some sel) : Move i s { s with chsel := some sel }
  | record (s : State) (hi : i.writesChsel = true) : Move i s { s with hostCache := s.chsel }
  | reset (s : State) (hi : i = .reset) : Move i s (devReset s)

/-- A path of moves. -/
abbrev Path (i : Instr) : State → State → Prop := Relation.ReflTransGen (Move i)

theorem Path.single {i : Instr} {s t : State} (h : Move i s t) : Path i s t :=
  Relation.ReflTransGen.single h

/-- No move goes back in the draws. -/
theorem Move.draws_le {i : Instr} {s t : State} (h : Move i s t) : s.draws ≤ t.draws := by
  cases h with
  | probe _ _ h => exact h
  | exchange _ _ => exact Nat.le_succ _
  | reset _ => exact Nat.le_succ _
  | _ => exact Nat.le_refl _

/-- No path goes back in the draws. -/
theorem Path.draws_le {i : Instr} {s t : State} (h : Path i s t) : s.draws ≤ t.draws := by
  induction h with
  | refl => exact Nat.le_refl _
  | tail _ h ih => exact ih.trans h.draws_le

/-! ### The device commands are paths -/

theorem storeAt_path {i : Instr} {space : Space} {a : Addr} {v : Word} {s t : State}
    (hi : i.writesSpace space = true) (h : storeAt space a.toNat v s = .ok t) : Path i s t := by
  rcases storeAt_ok h with ⟨rfl, ha, chs, hc, rfl⟩ | ⟨rfl, p, chs, hp, hc, rfl⟩ | ⟨rfl, rfl⟩ | ⟨rfl, rfl⟩
  · exact .single (.pdef chs _ _ _ hi hc ha)
  · exact .single (.wave chs p v _ hi hc (pairAt_some hp).1)
  · exact .single (.dc _ _ _ hi)
  · exact .single (.misc _ _ _ hi)

theorem devStage_path {i : Instr} {v : Word} {s t : State} (hi : i.writesStaged = true)
    (h : devStage v s = .ok t) : Path i s t := by
  obtain ⟨hp, rfl⟩ := devStage_ok h
  exact .tail (.single (.stage v s hi hp)) (.exchange _ _ _)

theorem devCommit_path {i : Instr} {space : Space} {a : Addr} {s t : State}
    (hi : i.writesSpace space = true) (hs : i.writesStaged = true) (h : devCommit space a s = .ok t) :
    Path i s t := by
  obtain ⟨hp, u, hu, rfl⟩ := devCommit_ok h
  have hk := (storeAt_keeps hu).1
  exact ((storeAt_path hi hu).tail (.unstage u hs (by rw [hk, hp]))).tail (.exchange _ _ _)

theorem devUwrite_path {i : Instr} {space : Space} {w : Word48} {s t : State}
    (hi : i.writesSpace space = true) (h : devUwrite space w s = .ok t) : Path i s t := by
  obtain ⟨-, u, hu, rfl⟩ := devUwrite_ok h
  exact (storeAt_path hi hu).tail (.exchange _ _ _)

theorem answered_path {i : Instr} {c : Cmd} {a : Addr} {s t : State} {x : Except Refusal Word} {w : Word}
    (h : answered c a s x = .ok (w, t)) : Path i s t := by
  obtain ⟨-, rfl⟩ := answered_ok h
  exact .single (.exchange _ _ _)

theorem devChsel_path {i : Instr} {c : Nat} {s t : State} (hi : i.writesChsel = true)
    (h : devChsel c s = .ok t) : Path i s t := by
  obtain ⟨sel, hs, rfl⟩ := devChsel_ok h
  exact .tail (.single (.select c sel s hi hs)) (.exchange _ _ _)

theorem selectAndRecord_path {i : Instr} {c : Nat} {s t : State} (hi : i.writesChsel = true)
    (h : selectAndRecord c s = .ok t) : Path i s t := by
  obtain ⟨u, hu, rfl⟩ := selectAndRecord_ok h
  exact (devChsel_path hi hu).tail (.record u hi)

/-! ### The composite sequences are paths -/

theorem regWrite_path {i : Instr} {space : Space} {a v : Nat} {s t : State}
    (hi : i.writesSpace space = true) (hs : i.writesStaged = true) (h : regWrite space a v s = .ok t) :
    Path i s t := by
  rcases regWrite_ok h with ⟨-, u, hu, hc⟩ | ⟨-, hu⟩
  · exact (devStage_path hs hu).trans (devCommit_path hi hs hc)
  · exact devUwrite_path hi hu

theorem regWrites_path {i : Instr} {space : Space} {ws : List (Nat × Word)} {s t : State}
    (hi : i.writesSpace space = true) (hs : i.writesStaged = true) (h : regWrites space ws s = .ok t) :
    Path i s t := by
  induction ws generalizing s with
  | nil => cases h; exact .refl
  | cons aw ws ih =>
    obtain ⟨u, hu, ht⟩ := regWrites_cons.1 h
    exact (regWrite_path hi hs hu).trans (ih ht)

theorem readQuad_path {i : Instr} {e : Nat} {s t : State} {q : Word × Word × Word × Word}
    (h : readQuad e s = .ok (q, t)) : Path i s t := by
  obtain ⟨s₀, s₁, s₂, h₀, h₁, h₂, h₃⟩ := readQuad_ok h
  exact (((answered_path h₀).trans (answered_path h₁)).trans (answered_path h₂)).trans (answered_path h₃)

theorem scanSlots_path {i : Instr} {n e : Nat} {s t : State} {r : Option Nat}
    (h : scanSlots n e s = .ok (r, t)) : Path i s t := by
  induction n generalizing e s with
  | zero => cases h; exact .refl
  | succ n ih =>
    simp only [scanSlots] at h
    split at h
    · cases h
    · rename_i u hq
      split at h
      · cases h; exact readQuad_path hq
      · exact (readQuad_path hq).trans (ih h)

theorem findSlot_path {i : Instr} {s t : State} {e : Nat} (h : findSlot s = .ok (e, t)) : Path i s t := by
  simp only [findSlot] at h
  split at h
  · cases h
  · rename_i hs; cases h; exact scanSlots_path hs
  · rename_i u hs; cases h; exact (scanSlots_path hs).tail (.warn _ _)

theorem chooseSlot_path {i : Instr} {s t : State} {entry : Option Nat} {e : Nat}
    (h : chooseSlot entry s = .ok (e, t)) : Path i s t := by
  cases entry with
  | none => exact findSlot_path h
  | some e' => cases h; exact .refl

theorem readPairs_path {i : Instr} {n p : Nat} {s t : State} {vs : List Nat}
    (h : readPairs n p s = .ok (vs, t)) : Path i s t := by
  induction n generalizing p s vs with
  | zero => cases h; exact .refl
  | succ n ih =>
    simp only [readPairs] at h
    split at h
    · cases h
    · rename_i w u hw
      split at h
      · cases h
      · rename_i rest u' hr
        cases h
        exact (answered_path hw).trans (ih hr)

theorem broadcast_path {i : Instr} {all : Bool} {s t : State} (hi : all = true → i.writesChsel = true)
    (h : broadcast all s = .ok t) : Path i s t := by
  simp only [broadcast] at h
  split at h
  · rename_i ha; exact selectAndRecord_path (hi ha) h
  · cases h; exact .refl

/-! ### Every operation is a path and then a result or an error -/

/-- The state an ending comes from. -/
def Ending.state : Ending → State
  | .done _ s => s
  | .failed _ s => s

theorem writePdef_path {w : WaveOperand} {st : Nat} {g f : Rat} {su : Nat} {entry : Option Nat} {s : State}
    {e : Ending} (h : writePdef w st g f su entry s = .ok e) :
    Path (.writepdef w st g f su entry) s e.state := by
  obtain ⟨n, t, hc, ⟨err, -, rfl⟩ | ⟨u, writes, ws, -, hu, rfl⟩⟩ := writePdef_ok h
  · exact .single (.probe _ _ (chooseSlot_path (i := .findslot) hc).draws_le)
  · exact ((chooseSlot_path hc).tail (.warn _ _)).trans (regWrites_path (by rfl) rfl hu)

theorem writeTable_path {start : Nat} {samples : List Nat} {all : Bool} {s : State} {e : Ending}
    (h : writeTable start samples all s = .ok e) : Path (.writewave start samples all) s e.state := by
  simp only [writeTable] at h
  split at h
  · cases h; exact .refl
  · rename_i words ws hw
    split at h
    · cases h
    · rename_i t ht
      obtain ⟨u, hu, rfl⟩ := written_ok h
      refine (broadcast_path (fun ha => ?_) ht).trans
        (.trans (.single (.warn ws t)) (regWrites_path (by rfl) rfl hu))
      subst ha; rfl

theorem readTable_path {start length : Nat} {s : State} {e : Ending} (h : readTable start length s = .ok e) :
    Path (.readwave start length) s e.state := by
  simp only [readTable] at h
  split at h
  · cases h; exact .refl
  · split at h
    · cases h; exact .refl
    · split at h
      · cases h
      · rename_i vs t ht
        cases h; exact readPairs_path ht

theorem selectChannel_path {c : ChannelArg} {s : State} {e : Ending} (h : selectChannel c s = .ok e) :
    Path (.selectch c) s e.state := by
  simp only [selectChannel] at h
  split at h
  · cases h; exact .refl
  · obtain ⟨u, hu, rfl⟩ := written_ok h
    exact selectAndRecord_path rfl hu

theorem readErrors_path {s : State} {e : Ending} (h : readErrors s = .ok e) :
    Path .readerrs s e.state := by
  rcases readErrors_ok h with ⟨rs, -, rfl⟩ | ⟨err, -, rfl⟩
  · exact .single (.exchange _ _ _)
  · exact .single (.probe _ _ (Path.single (i := .errq) (.exchange _ _ s)).draws_le)

/-- A command whose body is a path is one. -/
theorem runCommand_path {i : Instr} {f : State → Except Refusal Ending} {s t : State}
    (hf : ∀ e, f s.start = .ok e → Path i s.start e.state) (h : runCommand f s = .next t) :
    ∃ u, Path i s.start u ∧ ((∃ r, t = u.succeed r) ∨ ∃ e, t = u.raise e) := by
  obtain ⟨e, he, rfl⟩ := runCommand_next h
  refine ⟨e.state, hf e he, ?_⟩
  cases e with
  | done r u => exact .inl ⟨r, rfl⟩
  | failed e u => exact .inr ⟨e, rfl⟩

theorem runFunction_path {i : Instr} {f : Except OpError (Result × List Warning)} {s t : State}
    (h : runFunction f s = .next t) :
    ∃ u, Path i s.start u ∧ ((∃ r, t = u.succeed r) ∨ ∃ e, t = u.raise e) := by
  rcases runFunction_next h with ⟨r, ws, -, rfl⟩ | ⟨e, -, rfl⟩
  · exact ⟨_, .single (.warn ws _), .inl ⟨r, rfl⟩⟩
  · exact ⟨_, .refl, .inr ⟨e, rfl⟩⟩

/-- A write command is the path of its body. -/
theorem written_path {i : Instr} {f : State → Except Refusal State} {s t : State}
    (hf : ∀ u, f s.start = .ok u → Path i s.start u)
    (h : runCommand (fun s => written (f s)) s = .next t) :
    ∃ u, Path i s.start u ∧ ((∃ r, t = u.succeed r) ∨ ∃ e, t = u.raise e) :=
  runCommand_path (fun e he => by obtain ⟨u, hu, rfl⟩ := written_ok he; exact hf u hu) h

theorem readResult_path {i : Instr} {c : Cmd} {a : Addr} {x : State → Except Refusal Word} {s t : State}
    (h : runCommand (fun s => readResult (answered c a s (x s))) s = .next t) :
    ∃ u, Path i s.start u ∧ ((∃ r, t = u.succeed r) ∨ ∃ e, t = u.raise e) :=
  runCommand_path
    (fun e he => by obtain ⟨w, u, hu, rfl⟩ := readResult_ok he; exact answered_path hu) h

/-- EVERY OPERATION THAT COMPLETES is a path of its moves from a blank response, and then a result or an
error. -/
theorem exec_path (i : Instr) (s t : State) (h : exec i s = .next t) :
    ∃ u, Path i s.start u ∧ ((∃ r, t = u.succeed r) ∨ ∃ e, t = u.raise e) := by
  cases i with
  | evalpoly =>
    simp only [exec, execEvalpoly] at h
    exact runFunction_path h
  | pshape =>
    simp only [exec, execPshape] at h
    exact runFunction_path h
  | synth =>
    simp only [exec, execSynth] at h
    exact runFunction_path h
  | v2dac =>
    simp only [exec, execV2dac] at h
    exact runFunction_path h
  | packpair =>
    simp only [exec, execPackpair] at h
    exact runFunction_path h
  | unpackpair =>
    simp only [exec, execUnpackpair] at h
    exact runFunction_path h
  | packtable =>
    simp only [exec, execPacktable] at h
    exact runFunction_path h
  | mkwaveid =>
    simp only [exec, execMkwaveid] at h
    exact runFunction_path h
  | unwaveid =>
    simp only [exec, execUnwaveid] at h
    exact runFunction_path h
  | encpdef =>
    simp only [exec, execEncpdef] at h
    exact runFunction_path h
  | decpdef =>
    simp only [exec, execDecpdef] at h
    exact runFunction_path h
  | encw =>
    simp only [exec, execEncw] at h
    exact runFunction_path h
  | deccherr =>
    simp only [exec, execDeccherr] at h
    exact runFunction_path h
  | illegalFn =>
    simp only [exec, execIllegalFn] at h
    exact runFunction_path h
  | version =>
    simp only [exec, execVersion] at h
    exact runCommand_path (fun e he => by cases he; exact .single (.exchange _ _ _)) h
  | regdump => cases h
  | reset =>
    simp only [exec, execReset] at h
    exact runCommand_path
      (fun e he => by cases he; exact .single (.reset _ rfl)) h
  | chsel =>
    simp only [exec, execChsel] at h
    exact written_path (fun u hu => devChsel_path rfl hu) h
  | chen => cases h
  | readPdef =>
    simp only [exec, execReadPdef] at h
    exact readResult_path h
  | commitPdef =>
    simp only [exec, execCommitPdef] at h
    exact written_path (fun u hu => devCommit_path (by rfl) rfl hu) h
  | uwritePdef =>
    simp only [exec, execUwritePdef] at h
    exact written_path (fun u hu => devUwrite_path (by rfl) hu) h
  | readWave =>
    simp only [exec, execReadWave] at h
    exact readResult_path h
  | commitWave =>
    simp only [exec, execCommitWave] at h
    exact written_path (fun u hu => devCommit_path (by rfl) rfl hu) h
  | uwriteWave =>
    simp only [exec, execUwriteWave] at h
    exact written_path (fun u hu => devUwrite_path (by rfl) hu) h
  | commitDc =>
    simp only [exec, execCommitDc] at h
    exact written_path (fun u hu => devCommit_path (by rfl) rfl hu) h
  | uwriteDc =>
    simp only [exec, execUwriteDc] at h
    exact written_path (fun u hu => devUwrite_path (by rfl) hu) h
  | readMisc =>
    simp only [exec, execReadMisc] at h
    exact readResult_path h
  | commitMisc =>
    simp only [exec, execCommitMisc] at h
    exact written_path (fun u hu => devCommit_path (by rfl) rfl hu) h
  | uwriteMisc =>
    simp only [exec, execUwriteMisc] at h
    exact written_path (fun u hu => devUwrite_path (by rfl) hu) h
  | errq =>
    simp only [exec, execErrq] at h
    exact runCommand_path (fun e he => by cases he; exact .single (.exchange _ _ _)) h
  | stage =>
    simp only [exec, execStage] at h
    exact written_path (fun u hu => devStage_path rfl hu) h
  | illegalFrame => cases h
  | regwritePdef =>
    simp only [exec, execRegwritePdef] at h
    exact written_path (fun u hu => regWrite_path (by rfl) rfl hu) h
  | regwriteWave =>
    simp only [exec, execRegwriteWave] at h
    exact written_path (fun u hu => regWrite_path (by rfl) rfl hu) h
  | regwriteDc =>
    simp only [exec, execRegwriteDc] at h
    exact written_path (fun u hu => regWrite_path (by rfl) rfl hu) h
  | regwriteMisc =>
    simp only [exec, execRegwriteMisc] at h
    exact written_path (fun u hu => regWrite_path (by rfl) rfl hu) h
  | selectch =>
    simp only [exec, execSelectch] at h
    exact runCommand_path (fun _ he => selectChannel_path he) h
  | writepdef =>
    simp only [exec, execWritepdef] at h
    exact runCommand_path (fun _ he => writePdef_path he) h
  | findslot =>
    simp only [exec, execFindslot] at h
    refine runCommand_path (fun e he => ?_) h
    split at he
    · cases he
    · rename_i n u hf; cases he; exact findSlot_path hf
  | writewave =>
    simp only [exec, execWritewave] at h
    exact runCommand_path (fun _ he => writeTable_path he) h
  | readwave =>
    simp only [exec, execReadwave] at h
    exact runCommand_path (fun _ he => readTable_path he) h
  | clearpdef =>
    simp only [exec, execClearpdef] at h
    exact written_path (fun u hu => regWrites_path (by rfl) rfl hu) h
  | clearwave =>
    simp only [exec, execClearwave] at h
    exact written_path (fun u hu => regWrites_path (by rfl) rfl hu) h
  | readerrs =>
    simp only [exec, execReaderrs] at h
    exact runCommand_path (fun _ he => readErrors_path he) h

/-- A property that every move keeps is kept by a path. -/
theorem Path.keeps {i : Instr} {p : State → Prop} (hm : ∀ s t, Move i s t → p s → p t) {s t : State}
    (h : Path i s t) (hs : p s) : p t := by
  induction h with
  | refl => exact hs
  | tail _ hst ih => exact hm _ _ hst ih

end Sys2Proof.Machine
end

