-- ==== Sys2Proof/Laws/PerInstr.lean ====
section
/-! SUPPORT. Statements about every operation, proved for each on its own: the request of an operation carries the
byte of its row of the opcode table. -/

namespace Sys2Proof.Laws

open Sys2Proof Sys2Proof.Machine

/-- Where an operation stands in the opcode table: under an `opsel` (R70), under a command byte (R66), as a
composite sequence without an encoding (R73), or as an illegal frame (R75). -/
inductive Row where
  | function (opsel : Byte)
  | command (c : Cmd)
  | composite
  | illegal (digits : List Byte) (last : Byte)

/-- The row of each operation. -/
def rowOf : Instr → Row
  | .evalpoly _ _ _ => .function 0x01#8
  | .pshape _ _ _ _ _ _ _ => .function 0x02#8
  | .synth _ _ => .function 0x03#8
  | .v2dac _ _ _ => .function 0x04#8
  | .packpair _ _ => .function 0x05#8
  | .unpackpair _ => .function 0x06#8
  | .packtable _ => .function 0x07#8
  | .mkwaveid _ _ => .function 0x08#8
  | .unwaveid _ => .function 0x09#8
  | .encpdef _ _ _ _ _ _ => .function 0x0A#8
  | .decpdef _ _ _ _ => .function 0x0B#8
  | .encw _ _ _ => .function 0x0C#8
  | .deccherr _ => .function 0x0D#8
  | .illegalFn opsel => .function opsel
  | .version => .command .version
  | .regdump => .command .regdump
  | .reset => .command .reset
  | .chsel _ => .command .chsel
  | .chen _ => .command .chen
  | .readPdef _ => .command .pdefRd
  | .commitPdef _ => .command .pdefWr
  | .uwritePdef _ => .command .pdefWr
  | .readWave _ => .command .waveRd
  | .commitWave _ => .command .waveWr
  | .uwriteWave _ => .command .waveWr
  | .commitDc _ => .command .dcWr
  | .uwriteDc _ => .command .dcWr
  | .readMisc _ => .command .miscRd
  | .commitMisc _ => .command .miscWr
  | .uwriteMisc _ => .command .miscWr
  | .errq => .command .errq
  | .stage _ => .command .dataset
  | .illegalFrame digits last => .illegal digits last
  | .regwritePdef _ _ => .composite
  | .regwriteWave _ _ => .composite
  | .regwriteDc _ _ => .composite
  | .regwriteMisc _ _ => .composite
  | .selectch _ => .composite
  | .writepdef _ _ _ _ _ _ => .composite
  | .findslot => .composite
  | .writewave _ _ _ => .composite
  | .readwave _ _ => .composite
  | .clearpdef => .composite
  | .clearwave => .composite
  | .readerrs => .composite

/-- The request is one of the row: a function request with its `opsel`; a frame that ends in its command byte,
with a numeral before it exactly where the command takes an operand; the call itself; or the illegal bytes. -/
def Carries (P : Profile) (i : Instr) : Row → Prop
  | .function opsel => ∃ operands, encode P i = .fn opsel operands
  | .command c =>
    (takesOperand c = true → ∃ n, encode P i = .frame (dec n ++ [P.cmd.byteOf c]))
      ∧ (takesOperand c = false → encode P i = .frame [P.cmd.byteOf c])
  | .composite => encode P i = .composite i ∧ i.isComposite = true
  | .illegal digits last => encode P i = .frame (digits ++ [last])

/-- Under every profile, the operation's request carries the byte of its row. -/
def EncodesItsRow.Statement (i : Instr) : Prop := ∀ P : Profile, Carries P i (rowOf i)

theorem EncodesItsRow.evalpoly (degree : Nat) (x : Rat) (coefficients : List Rat) :
    EncodesItsRow.Statement (.evalpoly degree x coefficients) := fun _ => ⟨_, rfl⟩

theorem EncodesItsRow.pshape (currentTime startTime riseTicks : Int) (timeFactor : Rat)
    (holdTicks : Int) (gain : Rat) (coefficients : List Rat) :
    EncodesItsRow.Statement (.pshape currentTime startTime riseTicks timeFactor holdTicks gain coefficients) := fun _ => ⟨_, rfl⟩

theorem EncodesItsRow.synth (waveLength : Nat) (coefficients : List Rat) :
    EncodesItsRow.Statement (.synth waveLength coefficients) := fun _ => ⟨_, rfl⟩

theorem EncodesItsRow.v2dac (voltage referenceVoltage : Rat) (referenceMode : RefMode) :
    EncodesItsRow.Statement (.v2dac voltage referenceVoltage referenceMode) := fun _ => ⟨_, rfl⟩

theorem EncodesItsRow.packpair (first second : Nat) :
    EncodesItsRow.Statement (.packpair first second) := fun _ => ⟨_, rfl⟩

theorem EncodesItsRow.unpackpair (word : Word) :
    EncodesItsRow.Statement (.unpackpair word) := fun _ => ⟨_, rfl⟩

theorem EncodesItsRow.packtable (samples : List Nat) :
    EncodesItsRow.Statement (.packtable samples) := fun _ => ⟨_, rfl⟩

theorem EncodesItsRow.mkwaveid (length startAddress : Nat) :
    EncodesItsRow.Statement (.mkwaveid length startAddress) := fun _ => ⟨_, rfl⟩

theorem EncodesItsRow.unwaveid (waveId : Word) :
    EncodesItsRow.Statement (.unwaveid waveId) := fun _ => ⟨_, rfl⟩

theorem EncodesItsRow.encpdef (entry startTime : Nat) (wave : WaveOperand) (gain timeFactor : Rat)
    (sustain : Nat) :
    EncodesItsRow.Statement (.encpdef entry startTime wave gain timeFactor sustain) := fun _ => ⟨_, rfl⟩

theorem EncodesItsRow.decpdef (r0 r1 r2 r3 : Word) :
    EncodesItsRow.Statement (.decpdef r0 r1 r2 r3) := fun _ => ⟨_, rfl⟩

theorem EncodesItsRow.encw (address value : Nat) (commandByte : Byte) :
    EncodesItsRow.Statement (.encw address value commandByte) := fun _ => ⟨_, rfl⟩

theorem EncodesItsRow.deccherr (mapping : List (String × Word)) :
    EncodesItsRow.Statement (.deccherr mapping) := fun _ => ⟨_, rfl⟩

theorem EncodesItsRow.illegalFn (opsel : Byte) :
    EncodesItsRow.Statement (.illegalFn opsel) := fun _ => ⟨_, rfl⟩

theorem EncodesItsRow.version :
    EncodesItsRow.Statement .version := fun _ => ⟨nofun, fun _ => rfl⟩

theorem EncodesItsRow.regdump :
    EncodesItsRow.Statement .regdump := fun _ => ⟨nofun, fun _ => rfl⟩

theorem EncodesItsRow.reset :
    EncodesItsRow.Statement .reset := fun _ => ⟨nofun, fun _ => rfl⟩

theorem EncodesItsRow.chsel (c : Nat) :
    EncodesItsRow.Statement (.chsel c) := fun _ => ⟨fun _ => ⟨_, rfl⟩, nofun⟩

theorem EncodesItsRow.chen (m : Word) :
    EncodesItsRow.Statement (.chen m) := fun _ => ⟨fun _ => ⟨_, rfl⟩, nofun⟩

theorem EncodesItsRow.readPdef (address : Addr) :
    EncodesItsRow.Statement (.readPdef address) := fun _ => ⟨fun _ => ⟨_, rfl⟩, nofun⟩

theorem EncodesItsRow.commitPdef (address : Addr) :
    EncodesItsRow.Statement (.commitPdef address) := fun _ => ⟨fun _ => ⟨_, rfl⟩, nofun⟩

theorem EncodesItsRow.uwritePdef (word48 : Word48) :
    EncodesItsRow.Statement (.uwritePdef word48) := fun _ => ⟨fun _ => ⟨_, rfl⟩, nofun⟩

theorem EncodesItsRow.readWave (address : Addr) :
    EncodesItsRow.Statement (.readWave address) := fun _ => ⟨fun _ => ⟨_, rfl⟩, nofun⟩

theorem EncodesItsRow.commitWave (address : Addr) :
    EncodesItsRow.Statement (.commitWave address) := fun _ => ⟨fun _ => ⟨_, rfl⟩, nofun⟩

theorem EncodesItsRow.uwriteWave (word48 : Word48) :
    EncodesItsRow.Statement (.uwriteWave word48) := fun _ => ⟨fun _ => ⟨_, rfl⟩, nofun⟩

theorem EncodesItsRow.commitDc (address : Addr) :
    EncodesItsRow.Statement (.commitDc address) := fun _ => ⟨fun _ => ⟨_, rfl⟩, nofun⟩

theorem EncodesItsRow.uwriteDc (word48 : Word48) :
    EncodesItsRow.Statement (.uwriteDc word48) := fun _ => ⟨fun _ => ⟨_, rfl⟩, nofun⟩

theorem EncodesItsRow.readMisc (address : Addr) :
    EncodesItsRow.Statement (.readMisc address) := fun _ => ⟨fun _ => ⟨_, rfl⟩, nofun⟩

theorem EncodesItsRow.commitMisc (address : Addr) :
    EncodesItsRow.Statement (.commitMisc address) := fun _ => ⟨fun _ => ⟨_, rfl⟩, nofun⟩

theorem EncodesItsRow.uwriteMisc (word48 : Word48) :
    EncodesItsRow.Statement (.uwriteMisc word48) := fun _ => ⟨fun _ => ⟨_, rfl⟩, nofun⟩

theorem EncodesItsRow.errq :
    EncodesItsRow.Statement .errq := fun _ => ⟨nofun, fun _ => rfl⟩

theorem EncodesItsRow.stage (value : Word) :
    EncodesItsRow.Statement (.stage value) := fun _ => ⟨fun _ => ⟨_, rfl⟩, nofun⟩

theorem EncodesItsRow.illegalFrame (digits : List Byte) (last : Byte) :
    EncodesItsRow.Statement (.illegalFrame digits last) := fun _ => rfl

theorem EncodesItsRow.regwritePdef (address value : Nat) :
    EncodesItsRow.Statement (.regwritePdef address value) := fun _ => ⟨rfl, rfl⟩

theorem EncodesItsRow.regwriteWave (address value : Nat) :
    EncodesItsRow.Statement (.regwriteWave address value) := fun _ => ⟨rfl, rfl⟩

theorem EncodesItsRow.regwriteDc (address value : Nat) :
    EncodesItsRow.Statement (.regwriteDc address value) := fun _ => ⟨rfl, rfl⟩

theorem EncodesItsRow.regwriteMisc (address value : Nat) :
    EncodesItsRow.Statement (.regwriteMisc address value) := fun _ => ⟨rfl, rfl⟩

theorem EncodesItsRow.selectch (c : ChannelArg) :
    EncodesItsRow.Statement (.selectch c) := fun _ => ⟨rfl, rfl⟩

theorem EncodesItsRow.writepdef (wave : WaveOperand) (startTime : Nat) (gain timeFactor : Rat)
    (sustain : Nat) (entry : Option Nat) :
    EncodesItsRow.Statement (.writepdef wave startTime gain timeFactor sustain entry) := fun _ => ⟨rfl, rfl⟩

theorem EncodesItsRow.findslot :
    EncodesItsRow.Statement .findslot := fun _ => ⟨rfl, rfl⟩

theorem EncodesItsRow.writewave (startAddress : Nat) (samples : List Nat) (broadcastAll : Bool) :
    EncodesItsRow.Statement (.writewave startAddress samples broadcastAll) := fun _ => ⟨rfl, rfl⟩

theorem EncodesItsRow.readwave (startAddress length : Nat) :
    EncodesItsRow.Statement (.readwave startAddress length) := fun _ => ⟨rfl, rfl⟩

theorem EncodesItsRow.clearpdef :
    EncodesItsRow.Statement .clearpdef := fun _ => ⟨rfl, rfl⟩

theorem EncodesItsRow.clearwave :
    EncodesItsRow.Statement .clearwave := fun _ => ⟨rfl, rfl⟩

theorem EncodesItsRow.readerrs :
    EncodesItsRow.Statement .readerrs := fun _ => ⟨rfl, rfl⟩

end Sys2Proof.Laws
end

