-- ==== Sys2Proof/Laws/Writes.lean ====
section
/-! SUPPORT. What a run of device commands leaves alone, and what the register writes of a composite sequence do:
they complete whenever their stores do, and the spaces they leave are the stores', in order. -/

namespace Sys2Proof.Machine

open Sys2Proof

/-- The two fields of register `WAVE` of a pair, masked out of a word (R27, R30). -/
theorem waveFields_toNat (v : Word) :
    (v &&& 0x0FFF0FFF#32).toNat = v.toNat / 2 ^ 16 % 2 ^ 12 * 2 ^ 16 + v.toNat % 2 ^ 12 := by
  have hm : (0x0FFF0FFF#32).toNat = (2 ^ 12 - 1) <<< 16 ||| (2 ^ 12 - 1) := by decide
  have hs : v.toNat / 2 ^ 16 % 2 ^ 12 * 2 ^ 16 + v.toNat % 2 ^ 12
      = ((v.toNat / 2 ^ 16 % 2 ^ 12) <<< 16) ||| (v.toNat % 2 ^ 12) := by
    rw [Nat.shiftLeft_eq, Nat.mul_comm, ← Nat.two_pow_add_eq_or_of_lt (by omega)]
  rw [BitVec.toNat_and, hm, hs, Nat.and_or_distrib_left, Nat.and_two_pow_sub_one_eq_mod]
  congr 1
  apply Nat.eq_of_testBit_eq
  intro i
  simp only [Nat.testBit_and, Nat.testBit_shiftLeft, Nat.testBit_two_pow_sub_one, Nat.testBit_mod_two_pow,
    Nat.testBit_div_two_pow]
  by_cases h : 16 ≤ i <;> simp [h]
  · rw [Bool.and_comm]

/-- What a register keeps is what the register holds, field by field (R26 to R30). -/
theorem registerHolds_keptBits (P : Profile) (a : Nat) (v : Word) : RegisterHolds P a v (keptBits P a v) := by
  have low : ∀ (k : Nat) (m : Word), m.toNat = 2 ^ k - 1 → (v &&& m).toNat = v.toNat % 2 ^ k := by
    intro k m hm
    rw [BitVec.toNat_and, hm, Nat.and_two_pow_sub_one_eq_mod]
  refine ⟨fun h => by simp only [keptBits, h, if_true], fun h ha => ?_, fun h ha hm => ?_, fun h ha hm => ?_,
    fun h ha => ?_, fun h ha => ?_⟩ <;> simp only [keptBits, h, Bool.false_eq_true, if_false, fieldMask, ha]
  · exact low 24 _ (by decide)
  · rw [hm]; exact BitVec.and_allOnes
  · rw [hm]; exact waveFields_toNat v
  · exact BitVec.and_allOnes
  · exact low 17 _ (by decide)

/-- What a run of device commands leaves alone, and what it adds to the response: its frames, and device
errors. -/
structure Ran (s t : State) (sent : List Frame) : Prop where
  host : SameHost s t
  chsel : t.chsel = s.chsel
  epoch : t.epoch = s.epoch
  cache : t.hostCache = s.hostCache
  result : t.response.result = s.response.result
  error : t.response.error = s.response.error
  sent : t.response.sent = s.response.sent ++ sent
  flags : ∃ ls : List Line, t.response.warnings = s.response.warnings ++ ls.map .deviceError

theorem Ran.refl (s : State) : Ran s s [] :=
  ⟨⟨rfl, rfl, rfl⟩, rfl, rfl, rfl, rfl, rfl, by simp, [], by simp⟩

theorem Ran.trans {s t u : State} {f g : List Frame} (h : Ran s t f) (k : Ran t u g) :
    Ran s u (f ++ g) := by
  obtain ⟨l, hl⟩ := h.flags
  obtain ⟨m, hm⟩ := k.flags
  exact ⟨⟨k.host.profile.trans h.host.profile, k.host.program.trans h.host.program,
      k.host.pc.trans h.host.pc⟩, k.chsel.trans h.chsel, k.epoch.trans h.epoch, k.cache.trans h.cache,
    k.result.trans h.result, k.error.trans h.error, by rw [k.sent, h.sent, List.append_assoc],
    l ++ m, by rw [hm, hl]; simp⟩

/-- The spaces of two states are the same. -/
structure SameSpaces (s t : State) : Prop where
  pdef : t.pdef = s.pdef
  wram : t.wram = s.wram
  dcreg : t.dcreg = s.dcreg
  misc : t.misc = s.misc

/-- An exchange leaves every space and adds one frame. -/
theorem exchange_ran (f : Frame) (d : List Line) (s : State) : Ran s (exchange f d s) [f] :=
  ⟨⟨rfl, rfl, rfl⟩, rfl, rfl, rfl, rfl, rfl, rfl, s.deviceErrors, rfl⟩

/-- A store succeeds or not by the profile and the selection alone. -/
theorem storeAt_congr {space : Space} {a : Nat} {v : Word} {s t u : State}
    (hp : t.profile = s.profile) (hc : t.chsel = s.chsel) (hs : SameSpaces s t)
    (h : storeAt space a v s = .ok u) : ∃ u', storeAt space a v t = .ok u' ∧ SameSpaces u u' := by
  have ht := targets_congr (s := s) (t := t) hc hp
  obtain ⟨h1, h2, h3, h4⟩ := hs
  rcases storeAt_ok h with ⟨rfl, ha, chs, hk, rfl⟩ | ⟨rfl, p, chs, hq, hk, rfl⟩ | ⟨rfl, rfl⟩ | ⟨rfl, rfl⟩
  · refine ⟨storePdef chs a v t, ?_, by simp only [storePdef_pdef, hp, h1], h2, h3, h4⟩
    simp only [storeAt, storeAtPdef, hp, ht, hk, if_neg (Nat.not_le.2 ha)]
  · refine ⟨storePair chs p (unpairWord t.profile v) t, ?_, h1, by simp only [storePair_wram, hp, h2], h3, h4⟩
    simp only [storeAt, storeAtWave, hp, ht, hk, hq]
  · exact ⟨storeDc a v t, rfl, h1, h2, by simp only [storeDc_dcreg, h3], h4⟩
  · exact ⟨storeMisc a v t, rfl, h1, h2, h3, by simp only [storeMisc_misc, h4]⟩

theorem packWord48_toNat (a v : Nat) :
    (packWord48 a v).toNat = a % 2 ^ 16 * 2 ^ 32 + v % 2 ^ 32 := by
  have h : ((a % 2 ^ 16) <<< 32) ||| (v % 2 ^ 32) = a % 2 ^ 16 * 2 ^ 32 + v % 2 ^ 32 := by
    rw [Nat.shiftLeft_eq, Nat.mul_comm, ← Nat.two_pow_add_eq_or_of_lt (Nat.mod_lt _ (by decide))]
  simp only [packWord48, h, BitVec.toNat_ofNat]
  omega

theorem word48Address_toNat (w : Word48) : (word48Address w).toNat = w.toNat / 2 ^ 32 := by
  have := w.isLt
  simp only [word48Address, BitVec.extractLsb'_toNat, Nat.shiftRight_eq_div_pow]
  omega

theorem word48Value_eq (w : Word48) : word48Value w = BitVec.ofNat 32 w.toNat := by
  apply BitVec.eq_of_toNat_eq
  simp [word48Value]

theorem word48Value_packWord48 (a v : Nat) : word48Value (packWord48 a v) = BitVec.ofNat 32 v := by
  rw [word48Value_eq]
  apply BitVec.eq_of_toNat_eq
  simp only [packWord48_toNat, BitVec.toNat_ofNat]
  omega

/-- The frames of one register write: those of `ENCW` (R130). -/
def writeFrames (P : Profile) (space : Space) (a v : Nat) : List Frame :=
  match P.protoRev with
  | .unified => [frame1 P (writeCmd space) (packWord48 a v).toNat]
  | .legacy => [frame1 P .dataset (v % 2 ^ 32), frame1 P (writeCmd space) (a % 2 ^ 16)]

theorem encodeWrite_writeCmd (P : Profile) (space : Space) (a v : Nat) :
    encodeWrite P a v (P.cmd.byteOf (writeCmd space)) = .ok (writeFrames P space a v) := by
  have h : P.cmd.byteOf (writeCmd space) ∈ writeSelectors P := by
    cases space <;> simp [writeSelectors, writeCmd, CommandBytes.byteOf]
  simp only [encodeWrite, if_pos h, writeFrames]
  cases P.protoRev <;> rfl

/-- One register write completes when its store does, and leaves the spaces the store leaves. -/
theorem regWrite_spec {space : Space} {a v : Nat} {s u : State}
    (h : storeAt space (a % 2 ^ 16) (BitVec.ofNat 32 v) s = .ok u) :
    ∃ t, regWrite space a v s = .ok t ∧ Ran s t (writeFrames s.profile space a v) ∧ SameSpaces u t
      ∧ StagedAfterWrite s t ∧ t.response.lines = s.response.lines := by
  simp only [regWrite, writeFrames]
  cases hp : s.profile.protoRev
  · -- legacy
    simp only [devStage, hp, devCommit]
    obtain ⟨u', hu, hs⟩ := storeAt_congr (s := s) (t := exchange (frame1 s.profile .dataset (BitVec.ofNat 32 v).toNat) []
      { s with staged := some (BitVec.ofNat 32 v) }) rfl rfl ⟨rfl, rfl, rfl, rfl⟩ h
    have hk := storeAt_keeps hu
    simp only [exchange_profile, hp]
    have ha : (BitVec.ofNat 16 a).toNat = a % 2 ^ 16 := by simp
    have hc : (exchange (frame1 s.profile .dataset (BitVec.ofNat 32 v).toNat) []
      { s with staged := some (BitVec.ofNat 32 v) }).committed = BitVec.ofNat 32 v := rfl
    rw [ha, hc, hu]
    refine ⟨_, rfl, ?_, ?_, ?_, ?_⟩
    · have r1 := exchange_ran (frame1 s.profile .dataset (BitVec.ofNat 32 v).toNat) []
        { s with staged := some (BitVec.ofNat 32 v) }
      have r2 := exchange_ran (frame1 s.profile (writeCmd space) (a % 2 ^ 16)) [] { u' with staged := none }
      obtain ⟨k1, k2, k3, k4, k5, k6, k7, k8, k9⟩ := hk
      obtain ⟨l, hl⟩ := r1.flags
      refine ⟨⟨k1, k2, k3⟩, k5, k6, k8, ?_, ?_, ?_, ?_⟩
      · simp [k9]
      · simp [k9]
      · simp [k9]
      · obtain ⟨m, hm⟩ := r2.flags
        refine ⟨l ++ m, ?_⟩
        rw [hm]
        simp only [k9, hl]
        simp
    · exact ⟨hs.pdef, hs.wram, hs.dcreg, hs.misc⟩
    · exact ⟨fun _ => rfl, fun h => by simp [hp] at h⟩
    · simp [hk.2.2.2.2.2.2.2.2]
  · -- unified
    have ha : (word48Address (packWord48 a v)).toNat = a % 2 ^ 16 := by
      rw [word48Address_toNat, packWord48_toNat]; omega
    simp only [devUwrite, hp, ha, word48Value_packWord48, h]
    have hk := storeAt_keeps h
    refine ⟨_, rfl, ?_, ⟨rfl, rfl, rfl, rfl⟩, ?_, ?_⟩
    · obtain ⟨k1, k2, k3, k4, k5, k6, k7, k8, k9⟩ := hk
      refine ⟨⟨k1, k2, k3⟩, k5, k6, k8, ?_, ?_, ?_, u.deviceErrors, ?_⟩ <;> simp [k9]
    · exact ⟨fun h => by simp [hp] at h, fun _ => hk.2.2.2.1⟩
    · simp [hk.2.2.2.2.2.2.2.2]

/-- The frames of register writes, one write at a time. -/
theorem registerFrames_cons {P : Profile} {space : Space} {a : Nat} {v : Word} {ws : List (Nat × Word)}
    (h : a < 2 ^ 16) :
    writeFrames P space a v.toNat ++ registerFrames P (P.cmd.byteOf (writeCmd space)) ws
      = registerFrames P (P.cmd.byteOf (writeCmd space)) ((a, v) :: ws) := by
  have ha : a % 65536 = a := Nat.mod_eq_of_lt h
  have hv := Nat.mod_eq_of_lt v.isLt
  simp only [writeFrames, registerFrames]
  cases P.protoRev
  · simp [frame1, CommandBytes.byteOf, ha, hv]
  · simp [frame1, packWord48_toNat, ha, hv]

/-- What register writes have sent is `registerFrames` of them. -/
theorem registerFrames_nil (P : Profile) (b : Byte) : registerFrames P b [] = [] := by
  simp only [registerFrames]
  cases P.protoRev <;> rfl

theorem stagedAfterWrite_trans {s t u : State} (hp : t.profile = s.profile) (h : StagedAfterWrite s t)
    (k : StagedAfterWrite t u) : StagedAfterWrite s u :=
  ⟨fun hl => k.1 (by rw [hp, hl]), fun hu => (k.2 (by rw [hp, hu])).trans (h.2 hu)⟩

theorem reached_congr {s t : State} (hp : t.profile = s.profile) (hc : t.chsel = s.chsel) (ch : Nat) :
    Reached t ch ↔ Reached s ch := by
  simp only [Reached, hp, hc]

/-- Register writes to pairwise distinct pulse-definition registers complete; each register of each channel
reached holds its value, and every other one what it held. -/
theorem regWrites_pdef {ws : List (Nat × Word)} {s : State} (hP : s.profile.WF) (hc : s.chsel ≠ none)
    (ha : ∀ aw ∈ ws, aw.1 < 4 * s.profile.nSlots) (hn : (ws.map Prod.fst).Nodup) :
    ∃ t, regWrites .pdef ws s = .ok t
      ∧ Ran s t (registerFrames s.profile s.profile.cmd.pdefWr ws)
      ∧ t.wram = s.wram ∧ t.dcreg = s.dcreg ∧ t.misc = s.misc
      ∧ (∀ ch, Reached s ch → ∀ aw ∈ ws, t.pdefAt ch aw.1 = keptBits s.profile aw.1 aw.2)
      ∧ (∀ ch b, ¬ (Reached s ch ∧ b ∈ ws.map Prod.fst) → t.pdefAt ch b = s.pdefAt ch b)
      ∧ (ws ≠ [] → StagedAfterWrite s t) ∧ (ws = [] → t = s)
      ∧ t.response.lines = s.response.lines := by
  induction ws generalizing s with
  | nil =>
    exact ⟨s, rfl, by rw [registerFrames_nil]; exact .refl s, rfl, rfl, rfl, by simp, by simp, by simp, fun _ => rfl, rfl⟩
  | cons aw ws ih =>
    obtain ⟨a, v⟩ := aw
    have ha0 : a < 4 * s.profile.nSlots := ha (a, v) List.mem_cons_self
    have ha1 : a % 2 ^ 16 = a := Nat.mod_eq_of_lt (by have := hP.slots_le; omega)
    obtain ⟨chs, ht⟩ := targets_ok hc
    have hst : storeAt .pdef (a % 2 ^ 16) (BitVec.ofNat 32 v.toNat) s = .ok (storePdef chs a v s) := by
      simp only [storeAt, storeAtPdef, ha1, if_neg (Nat.not_le.2 ha0), ht, BitVec.ofNat_toNat, BitVec.setWidth_eq]
    obtain ⟨u, hu, hr, hs, hg, hl⟩ := regWrite_spec hst
    have hpu := hr.host.profile
    rw [List.map_cons, List.nodup_cons] at hn
    obtain ⟨t, h1, h2, h3, h4, h5, h6, h7, h8, h9, h10⟩ := ih (s := u) (by rw [hpu]; exact hP)
      (by rw [hr.chsel]; exact hc) (fun aw h => by rw [hpu]; exact ha aw (List.mem_cons_of_mem _ h)) hn.2
    have hpd : ∀ ch b, u.pdefAt ch b = (storePdef chs a v s).pdefAt ch b :=
      fun ch b => pdefAt_congr hs.pdef hr.epoch ch b
    refine ⟨t, regWrites_cons.2 ⟨u, hu, h1⟩, ?_, h3.trans hs.wram, h4.trans hs.dcreg,
      h5.trans hs.misc, ?_, ?_, ?_, by simp, h10.trans hl⟩
    · rw [hpu] at h2
      exact registerFrames_cons (space := .pdef) (Nat.lt_of_lt_of_le ha0 hP.slots_le) ▸ hr.trans h2
    · intro ch hch aw haw
      rcases List.mem_cons.1 haw with rfl | haw
      · rw [h7 ch a (fun hh => hn.1 hh.2), hpd, storePdef_pdefAt,
          if_pos ⟨(mem_targets ht ch).2 hch, rfl⟩]
      · rw [h6 ch ((reached_congr hpu hr.chsel ch).2 hch) aw haw, hpu]
    · intro ch b hb
      simp only [List.map_cons, List.mem_cons, not_and, not_or] at hb
      rw [h7 ch b (fun hh => (hb ((reached_congr hpu hr.chsel ch).1 hh.1)).2 hh.2), hpd, storePdef_pdefAt,
        if_neg (fun hh => (hb ((mem_targets ht ch).1 hh.1)).1 hh.2)]
    · intro _
      by_cases hw : ws = []
      · rw [h9 hw]; exact hg
      · exact stagedAfterWrite_trans hpu hg (h8 hw)

/-- The WAVE register address of a pair within the capacity is a 16-bit offset (R42). -/
theorem waveRegAddr_lt {P : Profile} (hP : P.WF) {p : Nat} (h : p < P.waveRamCapacity / 2) :
    waveRegAddr P p < 2 ^ 16 := by
  have h1 := hP.capacity_le
  have h2 := hP.capacity_le_sample
  simp only [waveRegAddr]
  cases hm : P.waveAddrMode <;> simp only
  · omega
  · have := h2 hm; omega

/-- Register writes to pairwise distinct sample pairs complete; each pair of each channel reached holds its two
samples, and every other sample is what it was. -/
theorem regWrites_wave {ws : List (Nat × Word)} {s : State} (hP : s.profile.WF) (hc : s.chsel ≠ none)
    (ha : ∀ aw ∈ ws, aw.1 < s.profile.waveRamCapacity / 2) (hn : (ws.map Prod.fst).Nodup) :
    ∃ t, regWrites .wave (ws.map fun pw => (waveRegAddr s.profile pw.1, pw.2)) s = .ok t
      ∧ Ran s t (registerFrames s.profile s.profile.cmd.waveWr
          (ws.map fun pw => (waveRegAddr s.profile pw.1, pw.2)))
      ∧ t.pdef = s.pdef ∧ t.dcreg = s.dcreg ∧ t.misc = s.misc
      ∧ (∀ ch, Reached s ch → ∀ pw ∈ ws,
          (t.sampleAt ch (2 * pw.1), t.sampleAt ch (2 * pw.1 + 1)) = unpairWord s.profile pw.2)
      ∧ (∀ ch b, ¬ (Reached s ch ∧ b / 2 ∈ ws.map Prod.fst) → t.sampleAt ch b = s.sampleAt ch b)
      ∧ (ws ≠ [] → StagedAfterWrite s t) ∧ (ws = [] → t = s)
      ∧ t.response.lines = s.response.lines := by
  induction ws generalizing s with
  | nil =>
    exact ⟨s, rfl, by rw [List.map_nil, registerFrames_nil]; exact .refl s, rfl, rfl, rfl, by simp, by simp, by simp, fun _ => rfl, rfl⟩
  | cons pw ws ih =>
    obtain ⟨p, v⟩ := pw
    have ha0 : p < s.profile.waveRamCapacity / 2 := ha (p, v) List.mem_cons_self
    have ha1 : waveRegAddr s.profile p % 2 ^ 16 = waveRegAddr s.profile p :=
      Nat.mod_eq_of_lt (waveRegAddr_lt hP ha0)
    obtain ⟨chs, ht⟩ := targets_ok hc
    have hst : storeAt .wave (waveRegAddr s.profile p % 2 ^ 16) (BitVec.ofNat 32 v.toNat) s
        = .ok (storePair chs p (unpairWord s.profile v) s) := by
      simp only [storeAt, storeAtWave, ha1, pairAt_waveRegAddr ha0, ht, BitVec.ofNat_toNat, BitVec.setWidth_eq]
    obtain ⟨u, hu, hr, hs, hg, hl⟩ := regWrite_spec hst
    have hpu := hr.host.profile
    rw [List.map_cons, List.nodup_cons] at hn
    obtain ⟨t, h1, h2, h3, h4, h5, h6, h7, h8, h9, h10⟩ := ih (s := u) (by rw [hpu]; exact hP)
      (by rw [hr.chsel]; exact hc) (fun aw h => by rw [hpu]; exact ha aw (List.mem_cons_of_mem _ h)) hn.2
    rw [hpu] at h1
    have hwr : ∀ ch b, u.sampleAt ch b = (storePair chs p (unpairWord s.profile v) s).sampleAt ch b :=
      fun ch b => sampleAt_congr hs.wram hr.epoch hpu ch b
    refine ⟨t, ?_, ?_, h3.trans hs.pdef, h4.trans hs.dcreg,
      h5.trans hs.misc, ?_, ?_, ?_, by simp, h10.trans hl⟩
    · rw [List.map_cons]
      exact regWrites_cons.2 ⟨u, hu, h1⟩
    · rw [hpu] at h2
      exact registerFrames_cons (space := .wave) (waveRegAddr_lt hP ha0) ▸ hr.trans h2
    · intro ch hch aw haw
      have hm := (mem_targets ht ch).2 hch
      rcases List.mem_cons.1 haw with rfl | haw
      · rw [h7 ch (2 * p) (fun hh => hn.1 (by simpa using hh.2)),
          h7 ch (2 * p + 1) (fun hh => hn.1 (by
            have := hh.2
            rwa [show (2 * p + 1) / 2 = p by omega] at this)), hwr, hwr, storePair_sampleAt,
          storePair_sampleAt, if_pos ⟨hm, rfl⟩, if_neg (by omega), if_pos ⟨hm, rfl⟩]
      · rw [h6 ch ((reached_congr hpu hr.chsel ch).2 hch) aw haw, hpu]
    · intro ch b hb
      simp only [List.map_cons, List.mem_cons, not_and, not_or] at hb
      have hne : ∀ hm : ch ∈ chs, b / 2 ≠ p := fun hm => (hb ((mem_targets ht ch).1 hm)).1
      rw [h7 ch b (fun hh => (hb ((reached_congr hpu hr.chsel ch).1 hh.1)).2 hh.2), hwr,
        storePair_sampleAt, if_neg (fun hh => hne hh.1 (by omega)), if_neg (fun hh => hne hh.1 (by omega))]
    · intro _
      by_cases hw : ws = []
      · rw [h9 hw]; exact hg
      · exact stagedAfterWrite_trans hpu hg (h8 hw)

end Sys2Proof.Machine
end

