-- ==== Sys2Proof/Laws/Reads.lean ====
section
/-! SUPPORT. What a run of reads leaves alone, and what the reading parts of the composite sequences find: the scan
for an empty slot and the pairs of a table. -/

namespace Sys2Proof.Machine

open Sys2Proof

/-- What a run of reads leaves alone, and the number of its frames. -/
structure Asked (s t : State) (n : Nat) : Prop where
  host : SameHost s t
  spaces : SameSpaces s t
  staged : t.staged = s.staged
  chsel : t.chsel = s.chsel
  epoch : t.epoch = s.epoch
  cache : t.hostCache = s.hostCache
  sent : t.response.sent.length = s.response.sent.length + n
  flags : ∃ ls : List Line, t.response.warnings = s.response.warnings ++ ls.map .deviceError

theorem Asked.refl (s : State) : Asked s s 0 :=
  ⟨⟨rfl, rfl, rfl⟩, ⟨rfl, rfl, rfl, rfl⟩, rfl, rfl, rfl, rfl, rfl, [], by simp⟩

theorem Asked.trans {s t u : State} {m n : Nat} (h : Asked s t m) (k : Asked t u n) :
    Asked s u (m + n) := by
  obtain ⟨l, hl⟩ := h.flags
  obtain ⟨l', hl'⟩ := k.flags
  exact ⟨⟨k.host.profile.trans h.host.profile, k.host.program.trans h.host.program,
      k.host.pc.trans h.host.pc⟩,
    ⟨k.spaces.pdef.trans h.spaces.pdef, k.spaces.wram.trans h.spaces.wram,
      k.spaces.dcreg.trans h.spaces.dcreg, k.spaces.misc.trans h.spaces.misc⟩,
    k.staged.trans h.staged, k.chsel.trans h.chsel, k.epoch.trans h.epoch, k.cache.trans h.cache,
    by rw [k.sent, h.sent]; omega, l ++ l', by rw [hl', hl]; simp⟩

theorem exchange_asked (f : Frame) (d : List Line) (s : State) : Asked s (exchange f d s) 1 :=
  ⟨⟨rfl, rfl, rfl⟩, ⟨rfl, rfl, rfl, rfl⟩, rfl, rfl, rfl, rfl, by simp, s.deviceErrors, rfl⟩

/-- A run of reads changes nothing of the block. -/
theorem Asked.block {s t : State} {n : Nat} (h : Asked s t n) : SameBlock s t :=
  ⟨⟨fun _ _ => pdefAt_congr h.spaces.pdef h.epoch _ _,
      fun _ _ => sampleAt_congr h.spaces.wram h.epoch h.host.profile _ _⟩,
    ⟨fun _ => dcAt_congr h.spaces.dcreg h.epoch _, fun _ => miscAt_congr h.spaces.misc h.epoch _⟩,
    h.staged, h.chsel⟩

/-- A read of a pulse-definition register of the selected channel. -/
theorem devReadPdef_spec {s : State} {c a : Nat} (hP : s.profile.WF) (hc : s.chsel = some (.one c))
    (ha : a < 4 * s.profile.nSlots) :
    ∃ t, devReadPdef (BitVec.ofNat 16 a) s = .ok (s.pdefAt c a, t) ∧ Asked s t 1 := by
  have h16 : (BitVec.ofNat 16 a).toNat = a := by
    rw [BitVec.toNat_ofNat]; exact Nat.mod_eq_of_lt (by have := hP.slots_le; omega)
  refine ⟨_, ?_, exchange_asked (frame1 s.profile .pdefRd a) [dataLine [(s.pdefAt c a).toNat]] s⟩
  simp only [devReadPdef, loadPdef, h16, if_neg (Nat.not_le.2 ha), source_ok hc, answered]

/-- A read of a sample pair of the selected channel. -/
theorem devReadWave_spec {s : State} {c p : Nat} (hP : s.profile.WF) (hc : s.chsel = some (.one c))
    (hp : p < s.profile.waveRamCapacity / 2) :
    ∃ t, devReadWave (BitVec.ofNat 16 (waveRegAddr s.profile p)) s
        = .ok (pairWord s.profile (s.sampleAt c (2 * p)) (s.sampleAt c (2 * p + 1)), t)
      ∧ Asked s t 1 := by
  have h16 : (BitVec.ofNat 16 (waveRegAddr s.profile p)).toNat = waveRegAddr s.profile p := by
    rw [BitVec.toNat_ofNat]; exact Nat.mod_eq_of_lt (waveRegAddr_lt hP hp)
  refine ⟨_, ?_, exchange_asked (frame1 s.profile .waveRd (waveRegAddr s.profile p))
    [dataLine [(pairWord s.profile (s.sampleAt c (2 * p)) (s.sampleAt c (2 * p + 1))).toNat]] s⟩
  simp only [devReadWave, loadWave, h16, pairAt_waveRegAddr hp, source_ok hc, answered]

/-- The four registers of a slot of the selected channel. -/
theorem readQuad_spec {s : State} {c e : Nat} (hP : s.profile.WF) (hc : s.chsel = some (.one c))
    (he : e < s.profile.nSlots) :
    ∃ t, readQuad e s = .ok ((s.pdefAt c (4 * e), s.pdefAt c (4 * e + 1), s.pdefAt c (4 * e + 2),
        s.pdefAt c (4 * e + 3)), t) ∧ Asked s t 4 := by
  obtain ⟨s0, h0, a0⟩ := devReadPdef_spec (a := 4 * e) hP hc (by omega)
  have k0 := a0.host.profile
  obtain ⟨s1, h1, a1⟩ := devReadPdef_spec (s := s0) (a := 4 * e + 1) (by rw [k0]; exact hP)
    (a0.chsel.trans hc) (by rw [k0]; omega)
  have k1 := a1.host.profile.trans k0
  have b1 := a0.trans a1
  obtain ⟨s2, h2, a2⟩ := devReadPdef_spec (s := s1) (a := 4 * e + 2) (by rw [k1]; exact hP)
    (b1.chsel.trans hc) (by rw [k1]; omega)
  have k2 := a2.host.profile.trans k1
  have b2 := b1.trans a2
  obtain ⟨s3, h3, a3⟩ := devReadPdef_spec (s := s2) (a := 4 * e + 3) (by rw [k2]; exact hP)
    (b2.chsel.trans hc) (by rw [k2]; omega)
  refine ⟨s3, ?_, b2.trans a3⟩
  simp only [readQuad, h0, h1, h2, h3, a0.block.contexts.pdef, b1.block.contexts.pdef,
    b2.block.contexts.pdef]

/-- Whether the scan takes a slot of a channel for empty (R132). -/
def slotEmpty (s : State) (c e : Nat) : Bool :=
  scanEmpty s.profile (s.pdefAt c (4 * e)) (s.pdefAt c (4 * e + 1)) (s.pdefAt c (4 * e + 2))
    (s.pdefAt c (4 * e + 3))

/-- The scan finds the first empty slot, four reads a slot, or visits them all (R132). -/
theorem scanSlots_spec {n e c : Nat} {s : State} (hP : s.profile.WF) (hc : s.chsel = some (.one c))
    (hn : e + n ≤ s.profile.nSlots) :
    ∃ r t, scanSlots n e s = .ok (r, t) ∧
      ((∃ k, k < n ∧ r = some (e + k) ∧ slotEmpty s c (e + k) = true
          ∧ (∀ j, j < k → slotEmpty s c (e + j) = false) ∧ Asked s t (4 * (k + 1)))
        ∨ (r = none ∧ (∀ j, j < n → slotEmpty s c (e + j) = false) ∧ Asked s t (4 * n))) := by
  induction n generalizing e s with
  | zero => exact ⟨none, s, rfl, .inr ⟨rfl, by simp, .refl s⟩⟩
  | succ n ih =>
    obtain ⟨t, ht, ha⟩ := readQuad_spec (e := e) hP hc (by omega)
    by_cases hk : slotEmpty s c e = true
    · refine ⟨some e, t, ?_, .inl ⟨0, by omega, rfl, hk, by simp, ha⟩⟩
      simp only [scanSlots, ht]
      exact if_pos hk
    · obtain ⟨r, u, hu, hr⟩ := ih (s := t) (e := e + 1) (by rw [ha.host.profile]; exact hP)
        (ha.chsel.trans hc) (by rw [ha.host.profile]; omega)
      have hse : ∀ e', slotEmpty t c e' = slotEmpty s c e' := fun e' => by
        simp only [slotEmpty, ha.host.profile, ha.block.contexts.pdef]
      have h0 : ∀ m j, (∀ j, j < m → slotEmpty t c (e + 1 + j) = false) → j < m + 1 →
          slotEmpty s c (e + j) = false := by
        intro m j hm hj
        rcases j with _ | j
        · simpa using hk
        · have := hm j (by omega)
          rwa [hse, Nat.add_right_comm] at this
      refine ⟨r, u, ?_, ?_⟩
      · simp only [scanSlots, ht]
        exact (if_neg hk).trans hu
      · rcases hr with ⟨k, h1, h2, h3, h4, h5⟩ | ⟨h1, h2, h3⟩
        · refine .inl ⟨k + 1, by omega, by rw [h2]; congr 1; omega, ?_, fun j => h0 k j h4, ?_⟩
          · rwa [hse, Nat.add_right_comm] at h3
          · have := ha.trans h5
            rwa [show 4 + 4 * (k + 1) = 4 * (k + 1 + 1) by omega] at this
        · refine .inr ⟨h1, fun j => h0 n j h2, ?_⟩
          have := ha.trans h3
          rwa [show 4 + 4 * n = 4 * (n + 1) by omega] at this

/-- The pairs of a table, read in order, each unpacked from the word it was packed into (R134). -/
theorem readPairs_spec {n p c : Nat} {s : State} (hP : s.profile.WF) (hc : s.chsel = some (.one c))
    (hn : p + n ≤ s.profile.waveRamCapacity / 2) :
    ∃ t, readPairs n p s = .ok (((List.range n).flatMap fun k =>
          let pair := unpairWord s.profile
            (pairWord s.profile (s.sampleAt c (2 * (p + k))) (s.sampleAt c (2 * (p + k) + 1)))
          [pair.1, pair.2]), t)
      ∧ Asked s t n := by
  induction n generalizing p s with
  | zero => exact ⟨s, rfl, .refl s⟩
  | succ n ih =>
    obtain ⟨t, ht, ha⟩ := devReadWave_spec (p := p) hP hc (by omega)
    obtain ⟨u, hu, hb⟩ := ih (s := t) (p := p + 1) (by rw [ha.host.profile]; exact hP)
      (ha.chsel.trans hc) (by rw [ha.host.profile]; omega)
    refine ⟨u, ?_, by have := ha.trans hb; rwa [Nat.add_comm] at this⟩
    simp only [readPairs, ht, hu, List.range_succ_eq_map, List.flatMap_cons, List.flatMap_map,
      ha.host.profile, ha.block.contexts.wram]
    simp [Nat.add_assoc, Nat.add_comm 1]

end Sys2Proof.Machine
end

