-- ==== Sys2Proof/Tests/Slice0.lean ====
section
/-! SUPPORT. The model's own tests: the smoke tests of `WellFormed`, the decoding of every operation from a request
written out from spec/30_encoding.md, one or two examples of spec/95_test_vectors.md for each operation, and a
witness for the hypotheses of every obligation. -/

namespace Sys2Proof.Tests

open Machine

set_option Elab.async false

/-! ### Profiles and states -/

/-- `P0` under the unified revision. -/
def unified : Profile := { Profile.p0 with protoRev := .unified }

/-- `P0` with `STRICT`. -/
def strict : Profile := { Profile.p0 with strict := true }

/-- `P0` with the other form of `wave`, of a pair and of a pair's address. -/
def other : Profile :=
  { Profile.p0 with waveFieldMode := .addrLen, pairOrder := .evenHigh, waveAddrMode := .sampleAddress }

/-- `P0` with two slots and eight samples. -/
def tiny : Profile := { Profile.p0 with nSlots := 2, waveRamCapacity := 8 }

/-- `P0` with registers that keep the bits of their fields alone. -/
def trimmed : Profile := { Profile.p0 with pdefKeepUnused := false }

/-- `P0` with no slot and no sample. -/
def bare : Profile := { Profile.p0 with nSlots := 0, waveRamCapacity := 0 }

/-- The reset state under a profile, with a selection. -/
def bench (P : Profile) (sel : Option Selection) : State :=
  { State.reset with profile := P, chsel := sel }

/-- Channel 3 selected under `P0`, the state of the vectors of 2.12. -/
def three : State := bench .p0 (some (.one 3))

/-- What a next state shows. -/
def seen {α : Type} (view : State → α) : Host.Outcome State Fault Refusal → Option α
  | .next t => some (view t)
  | .fault _ => none
  | .refused _ => none

/-- The refusal of an outcome. -/
def refusal : Host.Outcome State Fault Refusal → Option Refusal
  | .next _ => none
  | .fault _ => none
  | .refused r => some r

/-- The result, the flags and the error of an operation that sends nothing. -/
def answer (i : Instr) (s : State) : Option (Option Result × List Warning × Option OpError) :=
  seen (fun t => (t.response.result, t.response.warnings, t.response.error)) (exec i s)

/-- The frames an operation sends. -/
def sent (i : Instr) (s : State) : Option (List Frame) := seen (fun t => t.response.sent) (exec i s)

/-- The result and the error of an operation. -/
def outcome (i : Instr) (s : State) : Option (Option Result × Option OpError) :=
  seen (fun t => (t.response.result, t.response.error)) (exec i s)

theorem p0_wf : Profile.p0.WF := by constructor <;> decide

theorem unified_wf : unified.WF := by constructor <;> decide

theorem strict_wf : strict.WF := by constructor <;> decide

theorem other_wf : other.WF := by constructor <;> decide

theorem tiny_wf : tiny.WF := by constructor <;> decide

theorem trimmed_wf : trimmed.WF := by constructor <;> decide

theorem bare_wf : bare.WF := by constructor <;> decide

/-- A bench state meets the invariant. -/
theorem bench_inv (P : Profile) (sel : Option Selection) (h : P.WF) (hs : selectionValid P sel) :
    Inv (bench P sel) where
  profile := h
  pc := Nat.le_refl 0
  memory := rfl
  pdef := by intro e he; cases he
  wram := by intro e he; cases he
  dcreg := by intro e he; cases he
  misc := by intro e he; cases he
  chsel := hs
  hostCache := by intro c hc; cases hc
  staged := fun _ => rfl
  epoch := Nat.zero_lt_one
  answer := fun _ => ⟨rfl, rfl⟩
  flags := List.nodup_nil

theorem three_inv : Inv three :=
  bench_inv _ _ p0_wf (by intro c hc; cases hc; decide)

/-! ### WellFormed refuses -/

theorem test_wf_chsel : (Instr.chsel 33).wf .p0 = false ∧ (Instr.chsel 32).wf .p0 = true := by decide

theorem test_wf_legacy_only :
    (Instr.stage 0).wf unified = false ∧ (Instr.commitPdef 0).wf unified = false
    ∧ (Instr.commitWave 0).wf unified = false ∧ (Instr.commitDc 0).wf unified = false
    ∧ (Instr.commitMisc 0).wf unified = false := by decide

theorem test_wf_unified_only :
    (Instr.uwritePdef 0).wf .p0 = false ∧ (Instr.uwriteWave 0).wf .p0 = false
    ∧ (Instr.uwriteDc 0).wf .p0 = false ∧ (Instr.uwriteMisc 0).wf .p0 = false := by decide

theorem test_wf_illegal_fn : (Instr.illegalFn 0x0D#8).wf .p0 = false := by decide

/-- A non-digit among the digits, a digit as the last byte, and a frame that is legal. -/
theorem test_wf_illegal_frame :
    (Instr.illegalFrame [0x80#8] 0x7F#8).wf .p0 = false ∧ (Instr.illegalFrame [] 0x30#8).wf .p0 = false
    ∧ (Instr.illegalFrame [0x33#8] 0x83#8).wf .p0 = false := by decide

/-! ### Decoding -/

/-- The function rows, `opsel` 0x01 to 0x0D (R70). -/
theorem test_decode_functions :
    decode .p0 (.fn 0x01#8 [.nat 2, .rat (1 / 2), .rats [1, 1]]) = .ok (.evalpoly 2 (1 / 2) [1, 1])
    ∧ decode .p0 (.fn 0x02#8 [.int 13, .int 10, .int 5, .rat 1, .int 2, .rat 3, .rats [1]])
        = .ok (.pshape 13 10 5 1 2 3 [1])
    ∧ decode .p0 (.fn 0x03#8 [.nat 5, .rats [1]]) = .ok (.synth 5 [1])
    ∧ decode .p0 (.fn 0x04#8 [.rat 5, .rat (5 / 4), .mode .external]) = .ok (.v2dac 5 (5 / 4) .external)
    ∧ decode .p0 (.fn 0x05#8 [.nat 204, .nat 409]) = .ok (.packpair 204 409)
    ∧ decode .p0 (.fn 0x06#8 [.word 0x1990CC#32]) = .ok (.unpackpair 0x1990CC#32)
    ∧ decode .p0 (.fn 0x07#8 [.nats [1, 2, 3]]) = .ok (.packtable [1, 2, 3]) :=
  ⟨rfl, rfl, rfl, rfl, rfl, rfl, rfl⟩

theorem test_decode_codec :
    decode .p0 (.fn 0x08#8 [.nat 64, .nat 256]) = .ok (.mkwaveid 64 256)
    ∧ decode .p0 (.fn 0x09#8 [.word 0x00400100#32]) = .ok (.unwaveid 0x00400100#32)
    ∧ decode .p0 (.fn 0x0A#8 [.nat 1, .nat 2, .wave (.id 3), .rat 4, .rat 5, .nat 6])
        = .ok (.encpdef 1 2 (.id 3) 4 5 6)
    ∧ decode .p0 (.fn 0x0B#8 [.word 1, .word 2, .word 3, .word 4]) = .ok (.decpdef 1 2 3 4)
    ∧ decode .p0 (.fn 0x0C#8 [.nat 2, .nat 9, .byte 0x86#8]) = .ok (.encw 2 9 0x86#8)
    ∧ decode .p0 (.fn 0x0D#8 [.mapping [("X", 1)]]) = .ok (.deccherr [("X", 1)])
    ∧ decode .p0 (.fn 0x7F#8 []) = .ok (.illegalFn 0x7F#8) :=
  ⟨rfl, rfl, rfl, rfl, rfl, rfl, rfl⟩

/-- The command bytes 0x80 to 0x8D of `P0`, with the frames of the vectors of 2.12 (R66). -/
theorem test_decode_frames :
    decode .p0 (.frame [0x80#8]) = .ok .version ∧ decode .p0 (.frame [0x81#8]) = .ok .regdump
    ∧ decode .p0 (.frame [0x82#8]) = .ok .reset
    ∧ decode .p0 (.frame [0x33#8, 0x31#8, 0x83#8]) = .ok (.chsel 31)
    ∧ decode .p0 (.frame [0x35#8, 0x84#8]) = .ok (.chen 5)
    ∧ decode .p0 (.frame [0x32#8, 0x85#8]) = .ok (.readPdef 2)
    ∧ decode .p0 (.frame [0x32#8, 0x86#8]) = .ok (.commitPdef 2)
    ∧ decode .p0 (.frame [0x31#8, 0x87#8]) = .ok (.readWave 1)
    ∧ decode .p0 (.frame [0x31#8, 0x88#8]) = .ok (.commitWave 1)
    ∧ decode .p0 (.frame [0x30#8, 0x89#8]) = .ok (.commitDc 0)
    ∧ decode .p0 (.frame [0x37#8, 0x8A#8]) = .ok (.readMisc 7)
    ∧ decode .p0 (.frame [0x37#8, 0x8B#8]) = .ok (.commitMisc 7)
    ∧ decode .p0 (.frame [0x8C#8]) = .ok .errq
    ∧ decode .p0 (.frame [0x32#8, 0x31#8, 0x34#8, 0x37#8, 0x34#8, 0x38#8, 0x33#8, 0x39#8, 0x30#8, 0x34#8, 0x8D#8])
        = .ok (.stage 0x80000100#32) :=
  ⟨rfl, rfl, rfl, rfl, rfl, rfl, rfl, rfl, rfl, rfl, rfl, rfl, rfl, rfl⟩

/-- The unified frames of 2.12 (R61): "10737418496", "4296642764", "26214" and "30064771073". -/
theorem test_decode_unified :
    decode unified (.frame [0x31#8, 0x30#8, 0x37#8, 0x33#8, 0x37#8, 0x34#8, 0x31#8, 0x38#8, 0x34#8, 0x39#8,
        0x36#8, 0x86#8]) = .ok (.uwritePdef 0x000280000100#48)
    ∧ decode unified (.frame [0x34#8, 0x32#8, 0x39#8, 0x36#8, 0x36#8, 0x34#8, 0x32#8, 0x37#8, 0x36#8, 0x34#8,
        0x88#8]) = .ok (.uwriteWave 0x0001001990CC#48)
    ∧ decode unified (.frame [0x32#8, 0x36#8, 0x32#8, 0x31#8, 0x34#8, 0x89#8])
        = .ok (.uwriteDc 26214#48)
    ∧ decode unified (.frame [0x33#8, 0x30#8, 0x30#8, 0x36#8, 0x34#8, 0x37#8, 0x37#8, 0x31#8, 0x30#8, 0x37#8,
        0x33#8, 0x8B#8]) = .ok (.uwriteMisc 0x000700000001#48) :=
  ⟨rfl, rfl, rfl, rfl⟩

/-- A selection out of range, a leading zero, a missing operand, an operand too many, an unknown byte and a `STAGE`
under the unified revision are illegal frames (R75); digits alone and two frames are no frame. -/
theorem test_decode_illegal :
    decode .p0 (.frame [0x33#8, 0x33#8, 0x83#8]) = .ok (.illegalFrame [0x33#8, 0x33#8] 0x83#8)
    ∧ decode .p0 (.frame [0x30#8, 0x37#8, 0x86#8]) = .ok (.illegalFrame [0x30#8, 0x37#8] 0x86#8)
    ∧ decode .p0 (.frame [0x86#8]) = .ok (.illegalFrame [] 0x86#8)
    ∧ decode .p0 (.frame [0x37#8, 0x80#8]) = .ok (.illegalFrame [0x37#8] 0x80#8)
    ∧ decode .p0 (.frame [0x20#8]) = .ok (.illegalFrame [] 0x20#8)
    ∧ decode unified (.frame [0x37#8, 0x8D#8]) = .ok (.illegalFrame [0x37#8] 0x8D#8)
    ∧ decode .p0 (.frame [0x37#8]) = .error .incompleteFrame
    ∧ decode .p0 (.frame [0x80#8, 0x80#8]) = .error .notOneFrame :=
  ⟨rfl, rfl, rfl, rfl, rfl, rfl, rfl, rfl⟩

/-- The composite sequences have no encoding of their own: the call is the operation (R73). -/
theorem test_decode_composites :
    ([.regwritePdef 2 9, .regwriteWave 1 9, .regwriteDc 0 9, .regwriteMisc 7 9, .selectch .all,
      .writepdef (.id 1) 2 3 4 5 (some 6), .findslot, .writewave 2 [1] true, .readwave 3 2, .clearpdef,
      .clearwave, .readerrs] : List Instr).all
        (fun i => decide (decode .p0 (.composite i) = .ok i)) = true
    ∧ decode .p0 (.composite .version) = .error .notComposite :=
  ⟨by decide +kernel, rfl⟩

/-- The host's words of the table, read as bytes of `P0` and as `opsel`. -/
theorem test_table_words :
    decodeTableWord 8 0x05 = some (.packpair 0 0) ∧ decodeTableWord 8 0x8D = some (.stage 0)
    ∧ decodeTableWord 8 0x83 = some (.chsel 0) ∧ decodeTableWord 8 0x0E = some (.illegalFn 0x0E#8) :=
  ⟨rfl, rfl, rfl, rfl⟩

/-- A stream of two frames and an incomplete tail (R75). -/
theorem test_stream :
    decodeLink .p0 [0x32#8, 0x83#8, 0x80#8, 0x31#8] = ([.chsel 2, .version], .tail [0x31#8]) := rfl

/-! ### Function operations (spec/95, 2.2 to 2.11) -/

theorem test_evalpoly : answer (.evalpoly 2 (1 / 2) [1, 1]) three = some (some (.rational 512), [], none) := by
  decide +kernel

theorem test_evalpoly_prefix :
    answer (.evalpoly 1 (1 / 2) [1, 7, 9]) three = some (some (.rational 512), [], none) := by decide +kernel

/-- Set A, the last rise tick; set B, the hold tick. -/
theorem test_pshape_rise :
    answer (.pshape 13 10 5 1 2 1 [1]) three = some (some (.rational (3072 / 5)), [], none) := by decide +kernel

theorem test_pshape_hold :
    answer (.pshape 3 0 5 (3 / 2) 1 (1 / 2) [0, 1]) three
      = some (some (.rational (16384 / 75)), [], none) := by decide +kernel

theorem test_synth_odd :
    answer (.synth 5 [1]) three = some (some (.naturals [0, 204, 409, 614, 819, 0]), [], none) := by
  decide +kernel

theorem test_synth_overflow :
    answer (.synth 4 [8]) three = some (some (.naturals [0, 2048, 4096, 6144]),
      [.sampleOverflow 2 4096 4095, .sampleOverflow 3 6144 4095], none) := by decide +kernel

theorem test_v2dac_clamp :
    answer (.v2dac 5 (5 / 4) .internal) three
      = some (some (.natural 65535), [.vClampHi 5 (5 / 2)], none) := by decide +kernel

theorem test_v2dac : answer (.v2dac 1 (5 / 4) .internal) three = some (some (.natural 26214), [], none) := by
  decide +kernel

theorem test_packpair :
    answer (.packpair 204 409) three = some (some (.word 0x001990CC#32), [], none) := by decide +kernel

theorem test_packpair_overflow :
    answer (.packpair 4096 2) three
      = some (some (.word 0x00003000#32), [.outOfRange .sample 4096 4095], none) := by decide +kernel

theorem test_unpackpair :
    answer (.unpackpair 0xFF1990CC#32) three = some (some (.pair 204 409), [], none) := by decide +kernel

theorem test_packtable :
    answer (.packtable [204, 409, 614]) three
      = some (some (.words [0x001990CC#32, 0x00000266#32]), [], none) := by decide +kernel

theorem test_packtable_strict :
    answer (.packtable [1, 4096, 4097]) (bench strict none)
      = some (none, [], some (.outOfRange .sample 4096 4095)) := by decide +kernel

theorem test_mkwaveid :
    answer (.mkwaveid 64 256) three = some (some (.word 0x00400100#32), [], none) := by decide +kernel

theorem test_mkwaveid_overflow :
    answer (.mkwaveid 0x10000 0) three
      = some (some (.word 0#32), [.outOfRange .waveLen 65536 65535], none) := by decide +kernel

theorem test_unwaveid :
    answer (.unwaveid 0x00400100#32) three = some (some (.pair 64 256), [], none) := by decide +kernel

/-- Negative operands come back as large positives, with two flags. -/
theorem test_encpdef_negative :
    answer (.encpdef 1 5 (.id 1) (-1 / 2) (-1) 0) three
      = some (some (.writes [(4, 5#32), (5, 1#32), (6, 0xC000FF00#32), (7, 0#32)]),
          [.outOfRange .gain (-1 / 2) (65535 / 32768), .outOfRange .timeFactor (-1) (65535 / 256)],
          none) := by decide +kernel

theorem test_encpdef_addr_len :
    answer (.encpdef 4 500 (.addrLen 0x123 0x40) (3 / 4) 2 9) (bench other none)
      = some (some (.writes [(16, 0x1F4#32), (17, 0x00400123#32), (18, 0x60000200#32), (19, 9#32)]), [],
          none) := by decide +kernel

theorem test_decpdef :
    answer (.decpdef 0xFF000004#32 0x00010000#32 0x80000100#32 0xFFFE0000#32) three
      = some (some (.pulse ⟨4, .id 0x00010000, 1, 1, 0⟩), [], none) := by decide +kernel

theorem test_decpdef_empty : answer (.decpdef 0 0 0 0) three = some (some .empty, [], none) := by
  decide +kernel

theorem test_encw_legacy :
    answer (.encw 0x10002 0x180000100 0x86#8) three
      = some (some (.frames [[0x32#8, 0x31#8, 0x34#8, 0x37#8, 0x34#8, 0x38#8, 0x33#8, 0x39#8, 0x30#8, 0x34#8,
          0x8D#8], [0x32#8, 0x86#8]]), [], none) := by decide +kernel

theorem test_encw_unified :
    answer (.encw 2 0x80000100 0x86#8) (bench unified none)
      = some (some (.frames [[0x31#8, 0x30#8, 0x37#8, 0x33#8, 0x37#8, 0x34#8, 0x31#8, 0x38#8, 0x34#8, 0x39#8,
          0x36#8, 0x86#8]]), [], none) := by decide +kernel

theorem test_deccherr :
    answer (.deccherr [("X", 0x80000001#32)]) three
      = some (some (.reports [("X", 31), ("X", 0)]), [], none) := by decide +kernel

theorem test_deccherr_channels :
    answer (.deccherr [("X", 0x100#32)]) (bench { Profile.p0 with cMaxChannels := 8 } none)
      = some (none, [], some (.badOperand .mask (.num 256) (.atMost 255))) := by decide +kernel

theorem test_illegal_fn :
    answer (.illegalFn 0x7F#8) three = some (none, [], some (.illegalOperation 0x7F#8)) := by decide +kernel

/-- `round` at the ties of 2.1. -/
theorem test_round :
    [5 / 2, 7 / 2, -5 / 2, 1 / 2, 3 / 2, 32768 / 3].map (roundQ .halfEven) = [2, 4, -2, 0, 2, 10923]
    ∧ [5 / 2, 7 / 2, -5 / 2, 1 / 2, 3 / 2, 32768 / 3].map (roundQ .halfAway)
        = [3, 4, -3, 1, 2, 10923] := by decide +kernel

/-! ### Device commands (spec/95, 2.12) -/

theorem test_stage : seen (fun t => t.staged) (exec (.stage 0x80000100#32) three)
    = some (some 0x80000100#32) := by decide +kernel

theorem test_commit_pdef :
    seen (fun t => (t.pdefAt 3 2, t.staged, t.response.sent))
      (exec (.commitPdef 2) { three with staged := some 0x80000100#32 })
      = some (0x80000100#32, none, [[0x32#8, 0x86#8]]) := by decide +kernel

theorem test_commit_pdef_range : refusal (exec (.commitPdef 1024) three)
    = some (.addressOutsideRange .pdef 1024) := by decide +kernel

theorem test_commit_wave :
    seen (fun t => (t.sampleAt 3 2, t.sampleAt 3 3, t.staged))
      (exec (.commitWave 1) { three with staged := some 0xFF1990CC#32 }) = some (204, 409, none) := by
  decide +kernel

theorem test_commit_dc :
    seen (fun t => (t.dcAt 0, t.staged)) (exec (.commitDc 0) { bench .p0 none with staged := some 26214#32 })
      = some (26214#32, none) := by decide +kernel

theorem test_commit_misc :
    seen (fun t => (t.miscAt 7, t.staged)) (exec (.commitMisc 7) { bench .p0 none with staged := some 1#32 })
      = some (1#32, none) := by decide +kernel

/-- The bits outside the fields of `START` are dropped where the profile keeps none (R30). -/
theorem test_commit_pdef_mask :
    seen (fun t => t.pdefAt 3 4)
      (exec (.commitPdef 4)
        { bench { Profile.p0 with pdefKeepUnused := false } (some (.one 3)) with staged := some 0xFF000004#32 })
      = some 4#32 := by decide +kernel

theorem test_uwrite_pdef :
    seen (fun t => (t.pdefAt 3 2, t.staged)) (exec (.uwritePdef 10737418496#48) (bench unified (some (.one 3))))
      = some (0x80000100#32, none) := by decide +kernel

theorem test_uwrite_wave :
    seen (fun t => (t.sampleAt 3 2, t.sampleAt 3 3))
      (exec (.uwriteWave 4296642764#48) (bench unified (some (.one 3)))) = some (204, 409) := by decide +kernel

theorem test_uwrite_dc : seen (fun t => t.dcAt 0) (exec (.uwriteDc 26214#48) (bench unified none))
    = some 26214#32 := by decide +kernel

theorem test_uwrite_misc : seen (fun t => t.miscAt 7) (exec (.uwriteMisc 30064771073#48) (bench unified none))
    = some 1#32 := by decide +kernel

theorem test_read_pdef :
    seen (fun t => (t.response.result, t.response.lines))
      (exec (.readPdef 2) { three with pdef := [((3, 2), 0x80000100#32)] })
      = some (some (.word 0x80000100#32),
          [[0x32#8, 0x31#8, 0x34#8, 0x37#8, 0x34#8, 0x38#8, 0x33#8, 0x39#8, 0x30#8, 0x34#8, 0x0A#8]]) := by
  decide +kernel

theorem test_read_wave :
    seen (fun t => (t.response.result, t.response.lines))
      (exec (.readWave 1) { three with wram := [((3, 2), 204), ((3, 3), 409)] })
      = some (some (.word 0x1990CC#32),
          [[0x31#8, 0x36#8, 0x37#8, 0x35#8, 0x34#8, 0x36#8, 0x38#8, 0x0A#8]]) := by decide +kernel

theorem test_read_misc :
    seen (fun t => (t.response.result, t.response.lines)) (exec (.readMisc 7) { three with misc := [((0, 7), 1#32)] })
      = some (some (.word 1#32), [[0x31#8, 0x0A#8]]) := by decide +kernel

theorem test_read_under_all : refusal (exec (.readPdef 2) (bench .p0 (some .all))) = some .readUnderAll := by
  decide +kernel

theorem test_chsel_all :
    seen (fun t => (t.chsel, t.response.sent)) (exec (.chsel 32) three)
      = some (some .all, [[0x33#8, 0x32#8, 0x83#8]]) := by decide +kernel

theorem test_chsel_range : (refusal (exec (.chsel 33) three)).isSome = true := by decide +kernel

theorem test_reset :
    seen (fun t => (t.staged, t.chsel, t.pdef.length, t.response.sent))
      (exec .reset { three with staged := some 9#32, pdef := [((3, 2), 1#32)] })
      = some (none, none, 0, [[0x82#8]]) := by decide +kernel

theorem test_version : seen (fun t => (t.chsel, t.response.sent)) (exec .version three)
    = some (some (.one 3), [[0x80#8]]) := by decide +kernel

theorem test_errq : seen (fun t => (t.chsel, t.response.sent)) (exec .errq three)
    = some (some (.one 3), [[0x8C#8]]) := by decide +kernel

theorem test_named_only :
    refusal (exec (.chen 5) three) = some .channelEnableUnspecified
    ∧ refusal (exec .regdump three) = some .registerDumpUnspecified
    ∧ refusal (exec (.illegalFrame [] 0x20#8) three) = some (.illegalFrame [] 0x20#8) := by decide +kernel

/-! ### Composite sequences (spec/95, 2.13 and Part 3) -/

theorem test_regwrite_pdef :
    seen (fun t => (t.pdefAt 3 0, t.staged, t.response.sent)) (exec (.regwritePdef 0 4) three)
      = some (4#32, none, [[0x34#8, 0x8D#8], [0x30#8, 0x86#8]]) := by decide +kernel

theorem test_regwrite_wave :
    seen (fun t => (t.sampleAt 3 2, t.sampleAt 3 3)) (exec (.regwriteWave 1 0x1990CC) three)
      = some (204, 409) := by decide +kernel

theorem test_regwrite_dc :
    seen (fun t => (t.dcAt 0, t.response.sent)) (exec (.regwriteDc 0 26214) (bench .p0 none))
      = some (26214#32, [[0x32#8, 0x36#8, 0x32#8, 0x31#8, 0x34#8, 0x8D#8], [0x30#8, 0x89#8]]) := by
  decide +kernel

theorem test_regwrite_misc :
    seen (fun t => (t.miscAt 7, t.response.sent.length)) (exec (.regwriteMisc 7 1) (bench unified none))
      = some (1#32, 1) := by decide +kernel

theorem test_selectch :
    seen (fun t => (t.chsel, t.hostCache, t.response.sent)) (exec (.selectch (.channel 31)) three)
      = some (some (.one 31), some (.one 31), [[0x33#8, 0x31#8, 0x83#8]]) := by decide +kernel

theorem test_selectch_range :
    answer (.selectch (.channel (-1))) three = some (none, [], some (.invalidChannel (-1) 31)) := by
  decide +kernel

theorem test_writepdef :
    seen (fun t => ([0, 1, 2, 3].map fun a => t.pdefAt 3 a, t.response.sent.length))
      (exec (.writepdef (.id 327688) 3 (1 / 2) (3 / 2) 50 (some 0)) three)
      = some ([4#32, 0x00050008#32, 0x40000180#32, 50#32], 8) := by decide +kernel

theorem test_writepdef_strict :
    answer (.writepdef (.id 0x10000) 0x1000000 1 1 0 (some 1)) (bench strict (some (.one 0)))
      = some (none, [], some (.outOfRange .start 16777216 16777215)) := by decide +kernel

/-- Channel 0 of the small profile with its slot 0 all zero. -/
def vacant : State :=
  { bench tiny (some (.one 0)) with pdef := [((0, 0), 0#32), ((0, 1), 0#32), ((0, 2), 0#32), ((0, 3), 0#32)] }

/-- Without an entry too, nothing counts as sent (R154, R166), the frames of the scan stand aside; the scan of an unselected block is refused, bad
operands or not (R131, R115). -/
theorem test_writepdef_precise :
    outcome (.writepdef (.addrLen 0 0) 5 1 1 0 none) vacant
      = some (none, some (.badOperand .wave (.wave (.addrLen 0 0)) (.waveForm .waveId)))
    ∧ sent (.writepdef (.addrLen 0 0) 5 1 1 0 none) vacant = some []
    ∧ seen (fun t => t.response.probes) (exec (.writepdef (.addrLen 0 0) 5 1 1 0 none) vacant)
      = sent .findslot vacant
    ∧ refusal (exec (.writepdef (.addrLen 0 0) 5 1 1 0 none) (bench .p0 none)) = some .noChannelSelected := by
  decide +kernel

/-- Slot 0 in use, slot 1 with four zero registers (P3). -/
theorem test_findslot :
    seen (fun t => (t.response.result, t.response.sent.length))
      (exec .findslot { bench tiny (some (.one 0)) with
        pdef := [((0, 0), 10#32), ((0, 1), 0), ((0, 2), 0), ((0, 3), 0), ((0, 4), 0), ((0, 5), 0), ((0, 6), 0),
          ((0, 7), 0)] }) = some (some (.slot 1), 8) := by decide +kernel

theorem test_findslot_wrap :
    seen (fun t => (t.response.result, t.response.sent.length))
      (exec .findslot { bench tiny (some (.one 0)) with
        pdef := [((0, 0), 10#32), ((0, 1), 0), ((0, 2), 0), ((0, 3), 0), ((0, 4), 0), ((0, 5), 0),
          ((0, 6), 0x80000100#32), ((0, 7), 0)] }) = some (some (.slot 0), 8) := by decide +kernel

theorem test_writewave :
    seen (fun t => [2, 3, 4, 5].map (t.sampleAt 3)) (exec (.writewave 2 [204, 409, 614] false) three)
      = some [204, 409, 614, 0] := by decide +kernel

theorem test_writewave_checks :
    answer (.writewave 3 [4096] true) (bench strict none) = some (none, [], some (.alignmentError 3))
    ∧ answer (.writewave 4094 [1, 2, 3] false) three
        = some (none, [], some (.invalidAddress .startAddressPlusLength 4098 4096)) := by decide +kernel

theorem test_readwave :
    outcome (.readwave 3 2)
      { three with wram := [((3, 2), 204), ((3, 3), 409), ((3, 4), 614), ((3, 5), 0)] }
      = some (some (.naturals [409, 614]), none) := by decide +kernel

theorem test_readwave_range :
    answer (.readwave 4095 2) three
      = some (none, [], some (.invalidAddress .startAddressPlusLength 4097 4096)) := by decide +kernel

theorem test_clearpdef :
    seen (fun t => ((List.range 8).map (t.pdefAt 3), t.response.sent.length))
      (exec .clearpdef (bench tiny (some (.one 3)))) = some (List.replicate 8 0#32, 16) := by decide +kernel

theorem test_clearwave :
    seen (fun t => ((List.range 8).map (t.sampleAt 3), t.response.sent.length))
      (exec .clearwave (bench tiny (some (.one 3)))) = some (List.replicate 8 0, 8) := by decide +kernel

/-- The masks are the device's, so an instance of the counting of 2.13 is fixed only without kinds. -/
theorem test_readerrs :
    outcome .readerrs (bench { Profile.p0 with errKinds := [] } none)
      = some (some (.counted [] 0), none) := by decide +kernel

/-- A step takes the operation at the index and advances it (R23). -/
theorem test_step :
    seen (fun t => (t.pc, t.chsel)) (step (State.reset.withFetchWord 8 0x83)) = some (1, some (.one 0)) := by
  decide +kernel

/-! ### Witnesses: states and operands that meet the hypotheses of the obligations -/

/-- An outcome that shows something is a next state that shows it. -/
theorem seen_next {α : Type} {view : State → α} {o : Host.Outcome State Fault Refusal} {a : α}
    (h : seen view o = some a) : ∃ t, o = .next t ∧ view t = a := by
  cases o with
  | next t => exact ⟨t, rfl, Option.some.inj h⟩
  | fault f => cases h
  | refused r => cases h

/-- `three` with a read as its one operation left. -/
def reading : State := three.placeRequest (.frame [0x32#8, 0x85#8])

theorem test_witness_EveryStepKeepsInvariant : Inv reading ∧ ∃ t, step reading = .next t :=
  ⟨{ three_inv with pc := by decide }, (seen_next (view := State.pc) (a := 1) (by decide +kernel)).imp fun _ h => h.1⟩

theorem test_witness_StepRunsDecodedOperation :
    (reading.program[reading.pc]? = some (.frame [0x32#8, 0x85#8])
      ∧ decode reading.profile (.frame [0x32#8, 0x85#8]) = .ok (.readPdef 2))
    ∧ ((three.placeRequest (.frame [0x37#8])).program[0]? = some (.frame [0x37#8])
      ∧ decode three.profile (.frame [0x37#8]) = .error .incompleteFrame)
    ∧ three.program.length ≤ three.pc := ⟨⟨rfl, rfl⟩, ⟨rfl, rfl⟩, Nat.le_refl 0⟩

theorem test_witness_OnlyListedWritersWrite :
    (∃ t, exec (.readMisc 7) three = .next t) ∧ (Instr.readMisc 7).writesStaged = false
    ∧ (Instr.readMisc 7).writesChsel = false ∧ ∀ space, (Instr.readMisc 7).writesSpace space = false :=
  ⟨⟨_, rfl⟩, rfl, rfl, fun _ => rfl⟩

/-- The channels on either side of the selected one. -/
theorem test_witness_OtherChannelsUntouched :
    three.chsel = some (.one 3) ∧ Instr.clearpdef ≠ .reset
    ∧ (∀ start samples, Instr.clearpdef ≠ .writewave start samples true)
    ∧ (∃ t, exec .clearpdef (bench tiny (some (.one 3))) = .next t) ∧ 2 ≠ 3 ∧ 4 ≠ 3 :=
  ⟨rfl, nofun, nofun,
    (seen_next (view := State.pc) (a := 0) (by decide +kernel)).imp fun _ h => h.1, by decide, by decide⟩

/-- Two states that differ in channels 2 and 4. -/
theorem test_witness_AnswersIgnoreOtherChannels :
    AgreeOn 3 three { three with pdef := [((2, 0), 7#32)], wram := [((4, 0), 9)] }
    ∧ ∃ t, exec (.readPdef 0) three = .next t :=
  ⟨{ host := ⟨rfl, rfl, rfl⟩, common := ⟨fun _ => rfl, fun _ => rfl⟩, staged := rfl, selected := ⟨rfl, rfl⟩,
      cache := rfl, draws := rfl,
      pdef := fun a => by simp [State.pdefAt, Cells.read, three, bench, State.reset],
      wram := fun a => by simp [State.sampleAt, Cells.read, three, bench, State.reset] }, _, rfl⟩

/-- A check of an operand, and one that the pseudocode puts after the scan. -/
theorem test_witness_ErrorsLeaveNoTrace :
    (∃ t, exec (.selectch (.channel 40)) three = .next t ∧ t.response.error.isSome = true)
    ∧ ∃ t, exec (.writepdef (.addrLen 0 0) 5 1 1 0 none) vacant = .next t
        ∧ t.response.error.isSome = true :=
  ⟨seen_next (by decide +kernel), seen_next (by decide +kernel)⟩

theorem test_witness_DecodeInvertsEncode :
    (Profile.p0.WF ∧ (Instr.chsel 31).wf .p0 = true ∧ (Instr.chsel 32).wf .p0 = true
      ∧ (Instr.stage 0xFFFFFFFF#32).wf .p0 = true ∧ (Instr.illegalFrame [0x37#8] 0x80#8).wf .p0 = true
      ∧ (Instr.illegalFn 0x0E#8).wf .p0 = true)
    ∧ unified.WF ∧ (Instr.uwriteMisc 0xFFFFFFFFFFFF#48).wf unified = true :=
  ⟨⟨p0_wf, by decide, by decide, by decide, by decide, by decide⟩, unified_wf, by decide⟩

theorem test_witness_EncodeInvertsFrameDecode :
    decodeFrame .p0 [0x33#8, 0x83#8] = .ok (.chsel 3)
    ∧ decodeFrame .p0 [0x30#8, 0x33#8, 0x83#8] = .ok (.illegalFrame [0x30#8, 0x33#8] 0x83#8) := ⟨rfl, rfl⟩

theorem test_witness_LinkStreamDecodes :
    Profile.p0.WF
    ∧ List.Forall₂
        (fun (i : Instr) f =>
          i.wf .p0 = true ∧ (∀ d l, i ≠ .illegalFrame d l) ∧ encode .p0 i = .frame f)
        [.chsel 3, .stage 7] [[0x33#8, 0x83#8], [0x37#8, 0x8D#8]]
    ∧ (Instr.illegalFrame [0x30#8, 0x37#8] 0x86#8).wf .p0 = true :=
  ⟨p0_wf, .cons ⟨by decide, nofun, rfl⟩ (.cons ⟨by decide, nofun, rfl⟩ .nil), by decide⟩

theorem test_witness_DataLinesParse : [0, 4294967295] ≠ ([] : List Nat) := by decide

theorem test_witness_UnassignedOpselIsIllegal :
    (0x00#8).toNat = 0 ∧ 0x0E ≤ (0x0E#8).toNat ∧ 0x0E ≤ (0xFF#8).toNat := by decide

theorem test_witness_NamedOnlyCommandsRefused : Profile.p0.WF ∧ unified.WF := ⟨p0_wf, unified_wf⟩

/-- One state and operand for each clause, each at the first refused value. -/
theorem test_witness_RefusedCommands :
    (bench .p0 none).chsel = none ∧ (bench .p0 (some .all)).chsel = some .all
    ∧ 4 * Profile.p0.nSlots ≤ (1024#16).toNat ∧ 4 * Profile.p0.nSlots ≤ (0x040000000000#48).toNat / 2 ^ 32
    ∧ (∀ p, p < Profile.p0.waveRamCapacity / 2 → (2048#16).toNat ≠ waveRegAddr .p0 p)
    ∧ (∀ p, p < other.waveRamCapacity / 2 → (1#16).toNat ≠ waveRegAddr other p)
    ∧ (∀ p, p < Profile.p0.waveRamCapacity / 2 → (0x080000000000#48).toNat / 2 ^ 32 ≠ waveRegAddr .p0 p)
    ∧ unified.protoRev = .unified ∧ Profile.p0.protoRev = .legacy
    ∧ (Profile.p0.cMaxChannels ≤ 33 ∧ 33 ≠ Profile.p0.chAll) := by
  refine ⟨rfl, rfl, by decide, by decide, ?_, ?_, ?_, rfl, rfl, by decide⟩ <;> intro p hp <;>
    simp [waveRegAddr, Profile.p0, other] at hp ⊢ <;> omega

/-- The composite sequences: the last table and the last read that pass their checks, operands that encode, and the
first addresses outside the two spaces. -/
theorem test_witness_RefusedCommands_composites :
    (0 < Profile.p0.nSlots ∧ 2 ≤ Profile.p0.waveRamCapacity)
    ∧ ([4095] ≠ ([] : List Nat) ∧ 4094 % 2 = 0 ∧ 4094 + ([4095].length + [4095].length % 2) ≤ strict.waveRamCapacity
      ∧ (∀ v ∈ [4095], v ≤ strict.smax) ∧ Profile.p0.strict = false)
    ∧ (0 < 1 ∧ 4095 + 1 ≤ Profile.p0.waveRamCapacity)
    ∧ (∃ t, exec (.encpdef 255 5 (.id 0x10000) 1 1 0) (bench .p0 none) = .next t ∧ t.response.error = none)
    ∧ 4 * Profile.p0.nSlots ≤ 1024 % 2 ^ 16
    ∧ ∀ p, p < Profile.p0.waveRamCapacity / 2 → 2048 % 2 ^ 16 ≠ waveRegAddr .p0 p := by
  refine ⟨by decide, by decide, by decide, seen_next (by decide +kernel), by decide, ?_⟩
  intro p hp
  simp [waveRegAddr, Profile.p0] at hp ⊢
  omega

theorem test_witness_EvalpolySumsPowers : 2 ≤ ([1, 1] : List Rat).length ∧ 0 ≤ ([] : List Rat).length := by
  decide

theorem test_witness_EvalpolyLaws :
    ([1, 2] : List Rat).length = ([3, 4] : List Rat).length
    ∧ (2 ≤ ([0, 1] : List Rat).length ∧ (0 : Rat) ≤ 1 ∧ (1 : Rat) ≤ 1
      ∧ ∀ c ∈ ([0, 1] : List Rat), 0 ≤ c ∧ c ≤ 1)
    ∧ Profile.p0.WF ∧ Profile.p0.addrBits = strict.addrBits :=
  ⟨rfl, by decide +kernel, p0_wf, rfl⟩

/-- Set A of 2.3: the first and the last tick of each region, and the ticks beside them. -/
theorem test_witness_PshapeByRegion :
    (0 : Int) < 5 ∧ (0 : Rat) < 1 ∧ (0 : Int) ≤ 2 ∧ (4 : Int) = ⌈(((5 : Int) : Rat) - 1) / 1⌉
    ∧ (∀ rel ∈ [(0 : Int), 3], 0 ≤ rel ∧ rel < 4) ∧ (∀ rel ∈ [(4 : Int), 5], 4 ≤ rel ∧ rel < 4 + 2)
    ∧ (∀ rel ∈ [(6 : Int), 8], 4 + 2 ≤ rel ∧ rel < 2 * 4 + 2 - 1)
    ∧ (∀ rel ∈ [(-1 : Int), 9], rel < 0 ∨ (4 + 2 ≤ rel ∧ 2 * 4 + 2 - 1 ≤ rel)) :=
  ⟨by decide, by norm_num, by decide, by norm_num, by decide, by decide, by decide, by decide⟩

theorem test_witness_PulseRegionFacts :
    (0 : Int) < 5 ∧ (0 : Rat) < 1 ∧ (0 : Int) ≤ 2 ∧ 4 = pulseWidth 5 1
    ∧ (pulseArg 1 5 2 1 ≠ 0 ∧ pulseArg 8 5 2 1 ≠ 0) ∧ ((0 : Int) ≤ 3 ∧ (3 : Int) < 4)
    ∧ ((0 : Int) ≤ 2 ∧ (2 : Int) ≤ 4 - 2)
    ∧ (pulseShape .p0 13 10 5 1 2 3 [1] = .ok (9216 / 5)
      ∧ pulseShape .p0 13 10 5 1 2 1 [1] = .ok (3072 / 5)) := by decide +kernel

/-- Set A of 2.3 with and without hold, at the first and the last tick of each range. -/
theorem test_witness_PulseBoundaryJump :
    (0 : Int) < 5 ∧ (0 : Rat) < 1 ∧ (0 : Int) ≤ 2 ∧ 4 = pulseWidth 5 1 ∧ (1 : Int) ≤ 4
    ∧ (1 : Int) ≤ 2 ∧ ((0 : Int) ≤ 0 ∧ (0 : Int) + 1 < 4) ∧ ((0 : Int) ≤ 2 ∧ (2 : Int) + 1 < 4)
    ∧ ((4 : Int) + 2 ≤ 6 ∧ (6 : Int) + 1 < 2 * 4 + 2 - 1) ∧ ((4 : Int) + 0 ≤ 4 ∧ (4 : Int) + 1 < 2 * 4 + 0 - 1) := by
  decide +kernel

theorem test_witness_SynthSamples : 0 < 5 ∧ 4 < 5 ∧ 5 % 2 = 1 := by decide

theorem test_witness_SynthLaws :
    Profile.p0.WF ∧ (∀ c ∈ ([0, 1] : List Rat), 0 ≤ c ∧ c ≤ 1)
    ∧ three.profile.addrBits = (bench strict none).profile.addrBits :=
  ⟨p0_wf, by decide +kernel, rfl⟩

theorem test_witness_V2dacConverts :
    (0 : Rat) < 5 / 4 ∧ (RefMode.internal = .internal → (5 / 2 : Rat) = 2 * (5 / 4))
    ∧ (RefMode.external = .external → (5 / 4 : Rat) = 5 / 4) := by decide +kernel

theorem test_witness_V2dacMonotone :
    Profile.p0.WF ∧ (0 : Rat) < 5 / 2 ∧ (5 / 2 : Rat) ≤ 5 / 2 ∧ (0 : Rat) ≤ 0 ∧ (1 : Rat) ≤ 2 :=
  ⟨p0_wf, by decide +kernel⟩

theorem test_witness_RoundIsNearest : |(1 / 4 : Rat) - ((0 : Int) : Rat)| < 1 / 2 := by norm_num [abs_lt]

/-- The last sample that fits and the first that does not, under both orders. -/
theorem test_witness_PackpairPacks :
    (three.profile.pairOrder = .evenLow ∧ three.profile.strict = false)
    ∧ other.pairOrder = .evenHigh
    ∧ (strict.strict = true ∧ 4095 ≤ strict.smax ∧ strict.smax < 4096) := by decide

theorem test_witness_UnpackpairInverts :
    Profile.p0.WF ∧ other.WF
    ∧ (0x0CC = (0x1990CC#32).toNat % 2 ^ Profile.p0.addrBits
      ∧ 0x199 = (0x1990CC#32).toNat / 2 ^ Profile.p0.addrBits % 2 ^ Profile.p0.addrBits)
    ∧ Profile.p0.pairOrder = .evenLow ∧ other.pairOrder = .evenHigh ∧ 4095 ≤ Profile.p0.smax
    ∧ 0 ≤ Profile.p0.smax :=
  ⟨p0_wf, other_wf, by decide⟩

theorem test_witness_PacktableUnpacks :
    strict.WF ∧ (∀ v ∈ [0, 4095, 1], v ≤ strict.smax) ∧ 1 < (3 + 1) / 2
    ∧ strict.strict = true ∧ [1, 4096, 4097] = [1] ++ 4096 :: [4097] ∧ (∀ u ∈ [1], u ≤ strict.smax)
    ∧ strict.smax < 4096 :=
  ⟨strict_wf, by decide⟩

theorem test_witness_WaveIdPacksAndUnpacks :
    Profile.p0.strict = false ∧ strict.strict = true ∧ (0xFFFF ≤ 0xFFFF ∧ 0xFFFF < 0x10000) := by decide

theorem test_witness_StartSubstitutedAtEntryZero :
    3 < three.profile.pulseStartMin ∧ 1 ≠ 0 ∧ three.profile.pulseStartMin ≤ 4
    ∧ ∃ t, exec (.encpdef 1 3 (.id 0x10000) 1 1 0) three = .next t
        ∧ t.response.result
          = some (.writes ((4, 3#32) :: [(5, 0x10000#32), (6, 0x80000100#32), (7, 0#32)])) :=
  ⟨by decide, by decide, by decide, seen_next (by decide +kernel)⟩

/-- The last entry; the substitution; every field at its largest value under `STRICT`; the other form of `wave`. -/
theorem test_witness_EncpdefRegisters :
    (255 < three.profile.nSlots ∧ waveFits three.profile.waveFieldMode (.id 0xFFFFFFFF) = true)
    ∧ (32768 = roundQ three.profile.roundTie (1 * 2 ^ (three.profile.gainBits - 1))
      ∧ 256 = roundQ three.profile.roundTie (1 * 2 ^ three.profile.fracBits)
      ∧ 4 = (if 0 = 0 ∧ 3 < three.profile.pulseStartMin then three.profile.pulseStartMin else 3)
      ∧ three.profile.strict = false)
    ∧ (65535 = roundQ strict.roundTie (65535 / 32768 * 2 ^ (strict.gainBits - 1))
      ∧ 65535 = roundQ strict.roundTie (65535 / 256 * 2 ^ strict.fracBits)
      ∧ 0xFFFFFF = (if 0 = 0 ∧ 0xFFFFFF < strict.pulseStartMin then strict.pulseStartMin else 0xFFFFFF)
      ∧ strict.strict = true)
    ∧ waveFits other.waveFieldMode (.addrLen 0xFFF 0xFFF) = true := by decide +kernel

/-- The first value of each field that does not fit. -/
theorem test_witness_EncpdefStrictFirstField :
    (strict.strict = true ∧ 1 < strict.nSlots ∧ waveFits strict.waveFieldMode (.id 0) = true
      ∧ waveFits other.waveFieldMode (.addrLen 0x1000 0x1000) = true)
    ∧ 0xFFFFFF < substStart strict 1 0x1000000 ∧ substStart strict 1 0xFFFFFF ≤ 0xFFFFFF
    ∧ 0xFFFFFFFF < 0x100000000 ∧ 0xFFF < 0x1000
    ∧ (fits16 (scaleGain strict 2) = false ∧ fits16 (scaleGain strict (65535 / 32768)) = true)
    ∧ (fits16 (scaleTime strict 256) = false ∧ fits16 (scaleTime strict (65535 / 256)) = true)
    ∧ 0x1FFFF < 0x20000 := by decide +kernel

theorem test_witness_DecpdefFields :
    ((0#32).toNat = 0) ∧ ¬ ((0#32).toNat = 0 ∧ (0#32).toNat = 0 ∧ (0#32).toNat = 0 ∧ (1#32).toNat = 0)
    ∧ (three.profile.waveFieldMode = .waveId → WaveOperand.id 0 = .id (0#32).toNat)
    ∧ (other.waveFieldMode = .addrLen → WaveOperand.addrLen 0xFFF 0xFFF
        = .addrLen ((0xFFFFFFFF#32).toNat % 2 ^ 12) ((0xFFFFFFFF#32).toNat / 2 ^ 16 % 2 ^ 12)) := by decide

/-- The source's round trip S3. -/
theorem test_witness_PulseRoundTrip :
    three.profile.WF
    ∧ (∃ t, exec (.encpdef 1 100 (.id 0x00080010) (1 / 3) (5 / 4) 7) three = .next t
      ∧ (t.response.result, t.response.warnings)
        = (some (.writes [(4, 0x64#32), (5, 0x00080010#32), (6, 0x2AAB0140#32), (7, 0x7#32)]), []))
    ∧ ¬ (0x64#32 = 0 ∧ 0x00080010#32 = 0 ∧ 0x2AAB0140#32 = 0 ∧ 0x7#32 = 0)
    ∧ three.profile.fracBits ≤ three.profile.gainBits :=
  ⟨p0_wf, seen_next (by decide +kernel), by decide, by decide⟩

theorem test_witness_EncwFrames :
    (Profile.p0.WF ∧ Profile.p0.protoRev = .legacy) ∧ (unified.WF ∧ unified.protoRev = .unified)
    ∧ (0x8B#8, Instr.commitMisc, Instr.uwriteMisc) ∈
      [(Profile.p0.cmd.pdefWr, Instr.commitPdef, Instr.uwritePdef),
       (Profile.p0.cmd.waveWr, Instr.commitWave, Instr.uwriteWave),
       (Profile.p0.cmd.dcWr, Instr.commitDc, Instr.uwriteDc),
       (Profile.p0.cmd.miscWr, Instr.commitMisc, Instr.uwriteMisc)] :=
  ⟨⟨p0_wf, rfl⟩, ⟨unified_wf, rfl⟩, .tail _ (.tail _ (.tail _ (.head _)))⟩

/-- `P0` with eight channels, as in 2.10. -/
def eight : Profile := { Profile.p0 with cMaxChannels := 8 }

theorem test_witness_DeccherrReversesBits :
    (∀ km ∈ [("X", 0xFF#32), ("Y", 0x01#32)], km.2.toNat < 2 ^ eight.cMaxChannels)
    ∧ 2 ^ eight.cMaxChannels ≤ (0x100#32).toNat ∧ three.profile.cMaxChannels = 32 := by decide

theorem test_witness_FunctionDomainErrors :
    ([1, 1] : List Rat).length < 3 ∧ (0 : Int) ≤ 0 ∧ ((0 : Int) < 1 ∧ (0 : Rat) ≤ 0)
    ∧ ((0 : Rat) < 1 ∧ (-1 : Int) < 0)
    ∧ (255 < three.profile.nSlots ∧ waveFits three.profile.waveFieldMode (.addrLen 0 0) = false)
    ∧ (0x85#8 ≠ three.profile.cmd.pdefWr ∧ 0x85#8 ≠ three.profile.cmd.waveWr
      ∧ 0x85#8 ≠ three.profile.cmd.dcWr ∧ 0x85#8 ≠ three.profile.cmd.miscWr)
    ∧ 2 ^ eight.cMaxChannels ≤ (0x100#32).toNat := by decide +kernel

theorem test_witness_StageHoldsValue : three.profile.protoRev = .legacy := rfl

/-- The last register of the last slot, with something staged and one or all channels reached. -/
theorem test_witness_CommitPdefWrites :
    three.profile.protoRev = .legacy ∧ (1023#16).toNat < 4 * three.profile.nSlots ∧ three.chsel ≠ none
    ∧ { three with staged := some 7#32 }.staged = some 7#32
    ∧ Reached three 3 ∧ Reached (bench .p0 (some .all)) 31
    ∧ ¬ (Reached three 3 ∧ 1022 = (1023#16).toNat) :=
  ⟨rfl, by decide, nofun, rfl, .inl rfl, .inr ⟨rfl, by decide⟩, fun h => absurd h.2 (by decide)⟩

/-- The hypotheses of the fields of `RegisterHolds`: both settings, each offset of the last slot, both modes. -/
theorem test_witness_RegisterHolds :
    three.profile.pdefKeepUnused = true ∧ trimmed.WF ∧ trimmed.pdefKeepUnused = false
    ∧ (trimmed.waveFieldMode = .waveId ∧ { other with pdefKeepUnused := false }.waveFieldMode = .addrLen)
    ∧ (1020 % 4 = 0 ∧ 1021 % 4 = 1 ∧ 1022 % 4 = 2 ∧ 1023 % 4 = 3) :=
  ⟨rfl, trimmed_wf, rfl, ⟨rfl, rfl⟩, by decide⟩

/-- The last pair, under both address modes. -/
theorem test_witness_CommitWaveWrites :
    three.profile.protoRev = .legacy ∧ 2047 < three.profile.waveRamCapacity / 2
    ∧ (2047#16).toNat = waveRegAddr three.profile 2047 ∧ (4094#16).toNat = waveRegAddr other 2047
    ∧ three.chsel ≠ none ∧ Reached three 3 ∧ ¬ (Reached three 3 ∧ (4093 = 2 * 2047 ∨ 4093 = 2 * 2047 + 1)) :=
  ⟨rfl, by decide, rfl, rfl, nofun, .inl rfl, fun h => absurd h.2 (by decide)⟩

theorem test_witness_CommitCommonWrites :
    (bench .p0 none).profile.protoRev = .legacy ∧ { three with staged := some 7#32 }.staged = some 7#32
    ∧ 1 ≠ (0#16).toNat :=
  ⟨rfl, rfl, by decide⟩

theorem test_witness_UwriteContexts :
    unified.protoRev = .unified ∧ (bench unified (some .all)).chsel ≠ none
    ∧ (1023 = (0x03FF80000100#48).toNat / 2 ^ 32 ∧ 0x80000100#32 = BitVec.ofNat 32 (0x03FF80000100#48).toNat)
    ∧ 1023 < 4 * unified.nSlots
    ∧ (2047 < unified.waveRamCapacity / 2 ∧ (0x07FF00000000#48).toNat / 2 ^ 32 = waveRegAddr unified 2047) :=
  ⟨rfl, nofun, by decide, by decide, by decide⟩

theorem test_witness_UwriteCommon : unified.WF ∧ unified.protoRev = .unified := ⟨unified_wf, rfl⟩

theorem test_witness_ReadRegistersReturn :
    three.chsel = some (.one 3) ∧ (1023#16).toNat < 4 * three.profile.nSlots := by decide

theorem test_witness_ReadWaveReturns :
    Inv three ∧ three.chsel = some (.one 3) ∧ 2047 < three.profile.waveRamCapacity / 2
    ∧ (2047#16).toNat = waveRegAddr three.profile 2047
    ∧ three.profile.pairOrder = .evenLow ∧ other.pairOrder = .evenHigh :=
  ⟨three_inv, rfl, by decide, rfl, rfl, rfl⟩

theorem test_witness_ReadsChangeNothing :
    Instr.readMisc 7 ∈ [Instr.readPdef 7, .readWave 7, .readMisc 7, .errq]
    ∧ ∃ t, exec (.readMisc 7) three = .next t := ⟨by decide +kernel, _, rfl⟩

theorem test_witness_ChselSelects :
    Profile.p0.WF ∧ (31 < three.profile.cMaxChannels ∧ Selection.one 31 = .one 31)
    ∧ (three.profile.cMaxChannels ≤ 32 ∧ 32 = three.profile.chAll ∧ Selection.all = .all)
    ∧ (Profile.p0.cMaxChannels ≤ 33 ∧ 33 ≠ Profile.p0.chAll) :=
  ⟨p0_wf, by decide, by decide, by decide⟩

/-- The address is masked to 16 bits. -/
theorem test_witness_RegwriteNetEffect :
    three.profile.WF ∧ (65536 + 1023) % 2 ^ 16 < 4 * three.profile.nSlots ∧ three.chsel ≠ none
    ∧ (2047 < three.profile.waveRamCapacity / 2 ∧ (65536 + 2047) % 2 ^ 16 = waveRegAddr three.profile 2047) :=
  ⟨p0_wf, by decide, nofun, by decide⟩

theorem test_witness_SelectchSelects :
    three.profile.WF ∧ (31 < three.profile.cMaxChannels ∧ Selection.one 31 = .one 31)
    ∧ 32 = three.profile.chAll ∧ ((-1 : Int) < 0 ∧ (three.profile.cMaxChannels : Int) ≤ 32)
    ∧ ∃ t, exec (.selectch (.channel 32)) three = .next t
        ∧ t.response.error = some (.invalidChannel 32 31) :=
  ⟨p0_wf, by decide, rfl, by decide, seen_next (by decide +kernel)⟩

theorem test_witness_FindslotFirstEmpty :
    tiny.WF ∧ (bench tiny (some (.one 0))).chsel = some (.one 0) := ⟨tiny_wf, rfl⟩

/-- Channel 0 of the small profile with both slots in use. -/
def occupied : State := { vacant with pdef := [((0, 0), 10#32), ((0, 4), 20#32)] }

theorem test_witness_WritepdefFillsSlot :
    (vacant.profile.WF ∧ vacant.chsel = some (.one 0) ∧ 0 < vacant.profile.nSlots ∧ SlotBlank vacant 0 0
      ∧ ∀ e', e' < 0 → ¬ SlotBlank vacant 0 e')
    ∧ (occupied.profile.WF ∧ occupied.chsel = some (.one 0)
      ∧ ∀ e', e' < occupied.profile.nSlots → ¬ SlotBlank occupied 0 e')
    ∧ (encodePdef tiny 0 10 (.id 0x10000) 1 1 0).toOption
        = some ([(0, 10#32), (1, 0x10000#32), (2, 0x80000100#32), (3, 0#32)], [])
    ∧ (encodePdef tiny 1 10 (.id 0x10000) 1 1 0).toOption
        = some ([(4, 10#32), (5, 0x10000#32), (6, 0x80000100#32), (7, 0#32)], []) := by
  refine ⟨⟨tiny_wf, rfl, by decide, ⟨by decide, fun _ => by decide, nofun, by decide, by decide⟩, nofun⟩,
    ⟨tiny_wf, rfl, ?_⟩, by decide +kernel, by decide +kernel⟩
  intro e' he h
  have : e' = 0 ∨ e' = 1 := by
    have : e' < 2 := he
    omega
  rcases this with rfl | rfl <;> exact absurd h.1 (by decide)

/-- An error of `ENCPDEF` at the last slot; the wrong form of `wave`; under `STRICT` the first start time that does
not fit, without an entry and with the last one. -/
theorem test_witness_WritepdefFillsSlot_errors :
    (∃ e, encodePdef three.profile 255 5 (.addrLen 0 0) 1 1 0 = .error e
      ∧ Fails (.encpdef 255 5 (.addrLen 0 0) 1 1 0) three e) ∧ 255 < three.profile.nSlots
    ∧ three.chsel = some (.one 3) ∧ (bench strict (some (.one 0))).chsel = some (.one 0)
    ∧ three.profile.WF ∧ waveFits three.profile.waveFieldMode (.addrLen 0 0) = false
    ∧ (strict.WF ∧ strict.strict = true ∧ waveFits strict.waveFieldMode (.id 0) = true
      ∧ ¬ 0x1000000 ≤ 0xFFFFFF)
    ∧ ((none : Option Nat).getD 0 < strict.nSlots ∧ (some 255).getD 0 < strict.nSlots) :=
  ⟨⟨_, rfl, runFunction_error three _⟩, by decide, rfl, rfl, p0_wf, rfl, ⟨strict_wf, rfl, rfl, by decide⟩, by decide⟩

/-- The last pair of the RAM, with a selection and as a broadcast. -/
theorem test_witness_WritewaveStores :
    three.profile.WF ∧ 2 = [4096].length + [4096].length % 2 ∧ 4094 % 2 = 0
    ∧ 4094 + 2 ≤ three.profile.waveRamCapacity ∧ three.profile.strict = false ∧ three.chsel ≠ none
    ∧ (∀ v ∈ [4095], v ≤ strict.smax) ∧ Reached three 3 ∧ 2 * 0 < 2
    ∧ ¬ (Reached three 3 ∧ 4094 ≤ 4093 ∧ 4093 < 4094 + 2) :=
  ⟨p0_wf, rfl, rfl, by decide, rfl, nofun, by decide, .inl rfl, by decide, fun h => absurd h.2 (by decide)⟩

/-- 2.13: the first sample that does not fit, after one that does. -/
theorem test_witness_WritewaveStores_strict :
    (bench strict none).profile.strict = true ∧ 4092 % 2 = 0
    ∧ 4 = ([4095] ++ 4096 :: [2]).length + ([4095] ++ 4096 :: [2]).length % 2
    ∧ 4092 + 4 ≤ strict.waveRamCapacity ∧ (∀ u ∈ [4095], u ≤ strict.smax) ∧ strict.smax < 4096 := by decide

theorem test_witness_AddressChecksFirst :
    1 % 2 = 1
    ∧ (∃ t, exec (.writewave 3 [1, 2] true) three = .next t ∧ t.response.error = some (.alignmentError 3))
    ∧ (4094 % 2 = 0 ∧ 4 = [1, 2, 3].length + [1, 2, 3].length % 2 ∧ three.profile.waveRamCapacity < 4094 + 4)
    ∧ three.profile.waveRamCapacity < 4095 + 2 ∧ three.profile.nSlots ≤ 256 :=
  ⟨rfl, seen_next (by decide +kernel), by decide, by decide, by decide⟩

theorem test_witness_ReadwaveReturns :
    Inv three ∧ 4095 + 1 ≤ three.profile.waveRamCapacity ∧ 4096 + 0 ≤ three.profile.waveRamCapacity
    ∧ three.chsel = some (.one 3) :=
  ⟨three_inv, by decide, by decide, rfl⟩

theorem test_witness_TableReadsBack :
    Inv three ∧ three.chsel = some (.one 3) ∧ 4094 % 2 = 0
    ∧ 4094 + ([4095].length + [4095].length % 2) ≤ three.profile.waveRamCapacity
    ∧ ∀ v ∈ [4095], v ≤ three.profile.smax :=
  ⟨three_inv, rfl, rfl, by decide, by decide⟩

theorem test_witness_ClearsZero :
    three.profile.WF ∧ three.chsel ≠ none ∧ three.profile.protoRev = .legacy
    ∧ unified.WF ∧ (bench unified (some .all)).chsel ≠ none ∧ unified.protoRev = .unified
    ∧ (0 < three.profile.nSlots ∧ 0 < three.profile.waveRamCapacity)
    ∧ (bare.WF ∧ (bench bare (some .all)).chsel ≠ none ∧ bare.nSlots = 0 ∧ bare.waveRamCapacity = 0) :=
  ⟨p0_wf, nofun, rfl, unified_wf, nofun, rfl, by decide, bare_wf, nofun, rfl, rfl⟩

theorem test_witness_ReaderrsCounts : three.profile.cMaxChannels = 32 := rfl

theorem test_witness_HandshakeVerdicts : ([[]] : List Line) ≠ [] := by decide

end Sys2Proof.Tests
end

