-- ==== Sys2Proof/Proofs/Scope.lean ====
section
/-! PROOFS. The scope of the model (R12, R16, R23): one step by what the index finds, and `round`. -/

namespace Sys2Proof.Machine

open Sys2Proof

/-! ### One step, by what stands at the index (R16, R23) -/

/-- The advance past an operation touches the index of a next state, and no other outcome. -/
theorem advanced_eq (o : Host.Outcome State Fault Refusal) :
    advanced o =
      match o with
      | .next t => .next { t with pc := t.pc + 1 }
      | .fault f => .fault f
      | .refused e => .refused e := by
  cases o <;> rfl

theorem fetch_eq_none_of_ended {s : State} (h : s.program.length ≤ s.pc) : s.fetch = none :=
  List.getElem?_eq_none h

theorem step_of_decodes {s : State} {r : Request} {i : Instr} (hr : s.fetch = some r)
    (hi : decode s.profile r = .ok i) : step s = advanced (exec i s) := by
  simp only [step, hr, hi]

theorem step_of_not_decodes {s : State} {r : Request} {e : DecodeError} (hr : s.fetch = some r)
    (he : decode s.profile r = .error e) : step s = .refused (.undecoded e) := by
  simp only [step, hr, he]

theorem step_of_ended {s : State} (h : s.program.length ≤ s.pc) : step s = .fault .endOfRun := by
  simp only [step, fetch_eq_none_of_ended h]

/-! ### `round` on the interval from an integer to the next (R12) -/

/-- `Int.floor_eq_iff` for the `Rat.floor` that `roundQ` computes with. -/
theorem floor_eq_of_mem {q : Rat} {n : Int} (hn : (n : Rat) ≤ q) (hq : q < n + 1) : q.floor = n :=
  Int.floor_eq_iff.mpr ⟨hn, hq⟩

theorem floor_add_half (n : Int) : ((n : Rat) + 1 / 2).floor = n :=
  floor_eq_of_mem (by linarith) (by linarith)

/-- Below the half, `round` goes down to the integer. -/
theorem roundQ_of_lt_half (tie : RoundTie) {q : Rat} {n : Int} (hn : (n : Rat) ≤ q)
    (hq : q < n + 1 / 2) : roundQ tie q = n := by
  have hfloor := floor_eq_of_mem hn (by linarith)
  have hfrac : q - n < 1 / 2 := by linarith
  simp only [roundQ, hfloor, if_pos hfrac]

/-- Above the half, `round` goes up to the next integer. -/
theorem roundQ_of_half_lt (tie : RoundTie) {q : Rat} {n : Int} (hn : (n : Rat) + 1 / 2 < q)
    (hq : q < n + 1) : roundQ tie q = n + 1 := by
  have hfloor := floor_eq_of_mem (by linarith) hq
  have hfrac : 1 / 2 < q - n := by linarith
  simp only [roundQ, hfloor, if_neg hfrac.not_gt, if_pos hfrac]

/-- At the half neither side is nearer, and only the tie rule is left. -/
theorem roundQ_halfEven_add_half (n : Int) :
    roundQ .halfEven ((n : Rat) + 1 / 2) = if n % 2 = 0 then n else n + 1 := by
  simp only [roundQ, floor_add_half, add_sub_cancel_left, lt_irrefl, if_false]

theorem int_add_half_neg_iff (n : Int) : (n : Rat) + 1 / 2 < 0 ↔ n < 0 := by
  constructor
  · intro h
    have : (n : Rat) < 0 := by linarith
    exact_mod_cast this
  · intro h
    have : (n : Rat) ≤ -1 := by exact_mod_cast Int.le_sub_one_of_lt h
    linarith

theorem roundQ_halfAway_add_half (n : Int) :
    roundQ .halfAway ((n : Rat) + 1 / 2) = if 0 ≤ n then n + 1 else n := by
  simp only [roundQ, floor_add_half, add_sub_cancel_left, lt_irrefl, if_false,
    int_add_half_neg_iff, ← not_lt, ite_not]

/-- Either tie rule takes one of the two integers at distance a half. -/
theorem roundQ_add_half_eq_or (tie : RoundTie) (n : Int) :
    roundQ tie ((n : Rat) + 1 / 2) = n ∨ roundQ tie ((n : Rat) + 1 / 2) = n + 1 := by
  cases tie with
  | halfEven => rw [roundQ_halfEven_add_half]; exact ite_eq_or_eq ..
  | halfAway => rw [roundQ_halfAway_add_half]; exact (ite_eq_or_eq ..).symm

/-- The error bound of R12, by the side of the half on which `q` lies. -/
theorem abs_sub_roundQ_le (tie : RoundTie) (q : Rat) : |q - (roundQ tie q : Rat)| ≤ 1 / 2 := by
  have hn : ((⌊q⌋ : Int) : Rat) ≤ q := Int.floor_le q
  have hq : q < ⌊q⌋ + 1 := Int.lt_floor_add_one q
  rw [abs_le]
  rcases lt_trichotomy q (⌊q⌋ + 1 / 2) with hlt | heq | hgt
  · rw [roundQ_of_lt_half tie hn hlt]
    constructor <;> linarith
  · obtain hdown | hup := roundQ_add_half_eq_or tie ⌊q⌋
    · rw [heq, hdown]
      constructor <;> linarith
    · rw [heq, hup]
      push_cast
      constructor <;> linarith
  · rw [roundQ_of_half_lt tie hgt hq]
    push_cast
    constructor <;> linarith

/-- An integer nearer than a half lies at or below `q` (round down to it) or above it (round up to it). -/
theorem roundQ_eq_of_abs_sub_lt (tie : RoundTie) {q : Rat} {n : Int} (h : |q - (n : Rat)| < 1 / 2) :
    roundQ tie q = n := by
  obtain ⟨hlo, hhi⟩ := abs_lt.mp h
  rcases le_or_gt (n : Rat) q with hn | hn
  · exact roundQ_of_lt_half tie hn (by linarith)
  · have hup : roundQ tie q = (n - 1) + 1 :=
      roundQ_of_half_lt tie (by push_cast; linarith) (by push_cast; linarith)
    rw [hup, sub_add_cancel]

end Sys2Proof.Machine

open Sys2Proof Sys2Proof.Machine

/-- Settles O3: the three cases of what stands at the index. -/
theorem stepRunsDecodedOperation : Obligations.StepRunsDecodedOperation := by
  intro s
  refine ⟨?decodes, ?undecoded, ?ended⟩
  case decodes => exact fun r i hr hi => (step_of_decodes hr hi).trans (advanced_eq _)
  case undecoded => exact fun r e hr he => step_of_not_decodes hr he
  case ended => exact step_of_ended

/-- Settles O25: `round` on each side of the half and at it. -/
theorem roundIsNearest : Obligations.RoundIsNearest :=
  ⟨abs_sub_roundQ_le, fun tie _ _ h => roundQ_eq_of_abs_sub_lt tie h, roundQ_halfEven_add_half,
    roundQ_halfAway_add_half⟩
end

section
/-! PROOFS. The state of the block (R20 to R39): its invariant from reset through every step, what an operation may
write of the state, and what its answer may depend on. -/

namespace Sys2Proof.Machine

open Sys2Proof

/-! ### One induction for every operation -/

/-- THE INDUCTION OVER AN OPERATION: what holds of the state with a blank response and is kept by every move holds
where the operation ends, with a result or with an error. -/
theorem exec_induction {i : Instr} {s t : State} {p q : State → Prop} (hx : exec i s = .next t) (start : p s.start)
    (move : ∀ u v, Move i u v → p u → p v) (succeed : ∀ u r, p u → q (u.succeed r))
    (raise : ∀ u e, p u → q (u.raise e)) : q t := by
  obtain ⟨u, hpath, ⟨r, rfl⟩ | ⟨e, rfl⟩⟩ := exec_path i s t hx
  · exact succeed u r (hpath.keeps move start)
  · exact raise u e (hpath.keeps move start)

/-! ### What the moves of an operation leave unchanged (R39) -/

/-- Every element of the block that the table of R39 does not let the operation write reads as before, and so does
the host's side. -/
structure KeepsUnlisted (i : Instr) (s t : State) : Prop where
  host : SameHost s t
  pdef : i.writesSpace .pdef = false → ∀ ch a, t.pdefAt ch a = s.pdefAt ch a
  wram : i.writesSpace .wave = false → ∀ ch a, t.sampleAt ch a = s.sampleAt ch a
  dc : i.writesSpace .dc = false → ∀ a, t.dcAt a = s.dcAt a
  misc : i.writesSpace .misc = false → ∀ a, t.miscAt a = s.miscAt a
  staged : i.writesStaged = false → t.staged = s.staged
  chsel : i.writesChsel = false → t.chsel = s.chsel

theorem KeepsUnlisted.refl (i : Instr) (s : State) : KeepsUnlisted i s s :=
  ⟨⟨rfl, rfl, rfl⟩, fun _ _ _ => rfl, fun _ _ _ => rfl, fun _ _ => rfl, fun _ _ => rfl, fun _ => rfl, fun _ => rfl⟩

theorem KeepsUnlisted.trans {i : Instr} {s t u : State} (h : KeepsUnlisted i s t) (k : KeepsUnlisted i t u) :
    KeepsUnlisted i s u where
  host := ⟨k.host.profile.trans h.host.profile, k.host.program.trans h.host.program, k.host.pc.trans h.host.pc⟩
  pdef hi ch a := (k.pdef hi ch a).trans (h.pdef hi ch a)
  wram hi ch a := (k.wram hi ch a).trans (h.wram hi ch a)
  dc hi a := (k.dc hi a).trans (h.dc hi a)
  misc hi a := (k.misc hi a).trans (h.misc hi a)
  staged hi := (k.staged hi).trans (h.staged hi)
  chsel hi := (k.chsel hi).trans (h.chsel hi)

/-- Each move writes one element, and its guard names the operation a writer of it. -/
theorem Move.keepsUnlisted {i : Instr} {s t : State} (hm : Move i s t) : KeepsUnlisted i s t := by
  have same := KeepsUnlisted.refl i s
  have host : SameHost s t := by cases hm <;> exact ⟨rfl, rfl, rfl⟩
  cases hm with
  | exchange | warn | probe | record => exact { same with host }
  | pdef _ _ _ _ hi => exact { same with host, pdef := fun hn => nomatch hi.symm.trans hn }
  | wave _ _ _ _ hi => exact { same with host, wram := fun hn => nomatch hi.symm.trans hn }
  | dc _ _ _ hi => exact { same with host, dc := fun hn => nomatch hi.symm.trans hn }
  | misc _ _ _ hi => exact { same with host, misc := fun hn => nomatch hi.symm.trans hn }
  | stage _ _ hi | unstage _ hi => exact { same with host, staged := fun hn => nomatch hi.symm.trans hn }
  | select _ _ _ hi => exact { same with host, chsel := fun hn => nomatch hi.symm.trans hn }
  | reset _ hi => subst hi; exact ⟨host, nofun, nofun, nofun, nofun, nofun, nofun⟩

/-- The frame says nothing of the response. -/
theorem KeepsUnlisted.answering {i : Instr} {s t : State} (h : KeepsUnlisted i s t) (r : Response) :
    KeepsUnlisted i s { t with response := r } :=
  { h with host := ⟨h.host.profile, h.host.program, h.host.pc⟩ }

theorem exec_keepsUnlisted {i : Instr} {s t : State} (hx : exec i s = .next t) : KeepsUnlisted i s t :=
  exec_induction (p := KeepsUnlisted i s) hx
    (start := (KeepsUnlisted.refl i s).answering _)
    (move := fun _ _ hm h => h.trans hm.keepsUnlisted)
    (succeed := fun _ _ h => h.answering _)
    (raise := fun _ _ h => h.answering _)

/-! ### What a write reaches with one channel selected (R21, R115) -/

/-- The other channels' contexts read as in `s`. -/
def OthersAs (c : Nat) (s t : State) : Prop :=
  ∀ ch, ch ≠ c → ∀ a, t.pdefAt ch a = s.pdefAt ch a ∧ t.sampleAt ch a = s.sampleAt ch a

theorem targets_of_one {s : State} {c : Nat} (h : s.chsel = some (.one c)) : s.targets = .ok [c] := by
  simp only [State.targets, h]

/-- Apart from a reset and a broadcast, an operation that selects a channel writes no register space. -/
theorem selects_or_writes (i : Instr) (hr : i ≠ .reset) (hb : ∀ start samples, i ≠ .writewave start samples true) :
    i.writesChsel = false ∨ ∀ space, i.writesSpace space = false := by
  cases i with
  | reset => exact absurd rfl hr
  | chsel | selectch => exact .inr fun _ => rfl
  | writewave start samples all =>
    cases all with
    | false => exact .inl rfl
    | true => exact absurd rfl (hb start samples)
  | _ => exact .inl rfl

/-- With one channel selected, a move other than a reset writes no other channel's context. -/
theorem Move.othersAs {i : Instr} {c : Nat} {s t : State} (hm : Move i s t) (hc : s.chsel = some (.one c))
    (hr : i ≠ .reset) : OthersAs c s t := by
  intro ch hch a
  have hnot : ∀ chs, s.targets = .ok chs → ch ∉ chs := by
    intro chs ht
    obtain rfl := Except.ok.inj ((targets_of_one hc).symm.trans ht)
    simpa using hch
  cases hm with
  | pdef chs _ _ _ _ ht => exact ⟨by rw [storePdef_pdefAt, if_neg fun h => hnot chs ht h.1], rfl⟩
  | wave chs _ _ _ _ ht =>
    exact ⟨rfl, by rw [storePair_sampleAt, if_neg fun h => hnot chs ht h.1, if_neg fun h => hnot chs ht h.1]⟩
  | reset _ hi => exact absurd hi hr
  | _ => exact ⟨rfl, rfl⟩

/-- An operation that does not select keeps its one channel selected from move to move, and so writes no other
channel's context. -/
theorem exec_othersAs {i : Instr} {c : Nat} {s t : State} (hx : exec i s = .next t) (hc : s.chsel = some (.one c))
    (hr : i ≠ .reset) (hn : i.writesChsel = false) : OthersAs c s t :=
  exec_induction (p := fun u => u.chsel = some (.one c) ∧ OthersAs c s u) hx
    (start := ⟨hc, fun _ _ _ => ⟨rfl, rfl⟩⟩)
    (move := fun _ _ hm ⟨hsel, hothers⟩ => ⟨(hm.keepsUnlisted.chsel hn).trans hsel, fun ch hch a =>
      have hmove := hm.othersAs hsel hr ch hch a
      ⟨hmove.1.trans (hothers ch hch a).1, hmove.2.trans (hothers ch hch a).2⟩⟩)
    (succeed := fun _ _ h => h.2)
    (raise := fun _ _ h => h.2)

/-! ### The profile of the reset state (R6) -/

theorem profile_p0_wf : Profile.p0.WF := by constructor <;> decide

/-! ### The invariant along the moves of an operation

Between two moves of an operation the response is half filled, and its flags need not be a set.  So the invariant is
carried along a path for the state with a blank response, `State.start`, and the response is added at the end. -/

theorem selectionValid_none (P : Profile) : selectionValid P none := nofun

theorem inv_start {s : State} (h : Inv s) : Inv s.start :=
  { h with answer := fun he => absurd rfl he, flags := List.nodup_nil }

/-- A command with a valid selection reaches only channels that the block has (R34, R115). -/
theorem lt_of_mem_targets {s : State} {chs : List Nat} (hc : selectionValid s.profile s.chsel)
    (ht : s.targets = .ok chs) {ch : Nat} (h : ch ∈ chs) : ch < s.profile.cMaxChannels := by
  rcases (mem_targets ht ch).1 h with hone | ⟨-, hlt⟩
  · exact hc ch hone
  · exact hlt

theorem inv_exchange {s : State} (h : Inv s.start) (f : Frame) (d : List Line) : Inv (exchange f d s).start :=
  { h with epoch := Nat.lt_succ_of_lt h.epoch }

theorem inv_storePdef {s : State} (h : Inv s.start) {chs : List Nat} {a : Nat} (v : Word)
    (hc : s.targets = .ok chs) (ha : a < 4 * s.profile.nSlots) : Inv (storePdef chs a v s).start :=
  { h with
    memory := storePdef_memoryWf chs a v h.memory
    pdef := fun e he => by
      rcases mem_writeEach he with ⟨hch, haddr, hval⟩ | hold
      · rw [haddr, hval]
        exact ⟨lt_of_mem_targets h.chsel hc hch, ha, keptBits_keptBits _ _ _⟩
      · exact h.pdef e hold }

theorem inv_storePair {s : State} (h : Inv s.start) {chs : List Nat} {p : Nat} (v : Word)
    (hc : s.targets = .ok chs) (hp : p < s.profile.waveRamCapacity / 2) :
    Inv (storePair chs p (unpairWord s.profile v) s).start :=
  { h with
    memory := storePair_memoryWf chs p _ h.memory
    wram := fun e he => by
      obtain ⟨hfirst, hsecond⟩ := unpairWord_lt s.profile v
      have hcap : 2 * p + 1 < s.profile.waveRamCapacity := by omega
      rcases mem_writePairs he with ⟨hch, ⟨haddr, hval⟩ | ⟨haddr, hval⟩⟩ | hold
      · rw [haddr, hval]
        exact ⟨lt_of_mem_targets h.chsel hc hch, Nat.lt_of_succ_lt hcap, hfirst⟩
      · rw [haddr, hval]
        exact ⟨lt_of_mem_targets h.chsel hc hch, hcap, hsecond⟩
      · exact h.wram e hold }

theorem inv_storeDc {s : State} (h : Inv s.start) (a : Addr) (v : Word) : Inv (storeDc a.toNat v s).start :=
  { h with
    memory := storeDc_memoryWf a.toNat v h.memory
    dcreg := fun e he => by
      rcases Cells.mem_write he with rfl | hold
      · exact ⟨rfl, a.isLt⟩
      · exact h.dcreg e hold }

theorem inv_storeMisc {s : State} (h : Inv s.start) (a : Addr) (v : Word) : Inv (storeMisc a.toNat v s).start :=
  { h with
    memory := storeMisc_memoryWf a.toNat v h.memory
    misc := fun e he => by
      rcases Cells.mem_write he with rfl | hold
      · exact ⟨rfl, a.isLt⟩
      · exact h.misc e hold }

theorem inv_devReset {s : State} (h : Inv s.start) : Inv (devReset s).start :=
  { h with
    memory := rfl
    pdef := nofun
    wram := nofun
    dcreg := nofun
    misc := nofun
    chsel := selectionValid_none _
    staged := fun _ => rfl
    epoch := Nat.lt_succ_self _ }

theorem inv_move {i : Instr} {s t : State} (hm : Move i s t) (h : Inv s.start) : Inv t.start := by
  cases hm with
  | exchange f d => exact inv_exchange h f d
  | warn ws => exact h
  | probe u _ hd => exact { h with epoch := Nat.lt_of_lt_of_le h.epoch hd }
  | pdef chs a v _ _ hc ha => exact inv_storePdef h v hc ha
  | wave chs p v _ _ hc hp => exact inv_storePair h v hc hp
  | dc a v => exact inv_storeDc h a v
  | misc a v => exact inv_storeMisc h a v
  | stage v _ _ hp => exact { h with staged := fun hu => nomatch hp.symm.trans hu }
  | unstage => exact { h with staged := fun _ => rfl }
  | select c sel _ _ hs => exact { h with chsel := selectionOf_valid hs }
  | record => exact { h with hostCache := h.chsel }
  | reset => exact inv_devReset h

/-! ### The invariant across an operation and a step -/

theorem inv_succeed {s : State} (h : Inv s.start) (r : Result) : Inv (s.succeed r) :=
  { h with answer := fun he => absurd rfl he, flags := nodup_flagSet _ }

theorem inv_raise {s : State} (h : Inv s.start) (e : OpError) : Inv (s.raise e) :=
  { h with answer := fun _ => ⟨rfl, rfl⟩, flags := List.nodup_nil }

theorem inv_exec {i : Instr} {s t : State} (h : Inv s) (hx : exec i s = .next t) : Inv t :=
  exec_induction (p := fun u => Inv u.start) hx
    (start := inv_start (inv_start h))
    (move := fun _ _ hm hu => inv_move hm hu)
    (succeed := fun _ r hu => inv_succeed hu r)
    (raise := fun _ e hu => inv_raise hu e)

/-- What a step that answers a next state has done: it found a request before the end of the program, and executed
the operation it decodes to (R16, R23). -/
theorem step_next {s t : State} (h : step s = .next t) :
    s.pc < s.program.length ∧ ∃ i u, exec i s = .next u ∧ t = u.advance := by
  rcases Nat.lt_or_ge s.pc s.program.length with hpc | hended
  · refine ⟨hpc, ?_⟩
    have hr : s.fetch = some s.program[s.pc] := List.getElem?_eq_getElem hpc
    cases hi : decode s.profile s.program[s.pc] with
    | error e => exact nomatch (step_of_not_decodes hr hi).symm.trans h
    | ok i =>
      have hx := (step_of_decodes hr hi).symm.trans h
      cases hu : exec i s with
      | next u => exact ⟨i, u, hu, by simpa [advanced, hu] using hx.symm⟩
      | fault f => simp [advanced, hu] at hx
      | refused r => simp [advanced, hu] at hx
  · exact nomatch (step_of_ended hended).symm.trans h

/-! ### Two runs side by side (R21, R115)

A write answers without a look at any register: its frames and its refusals need the profile, the selection, the
draws and the response so far (`Alike`).  A read needs the selected channel's context and MISC besides (`SameView`).
Every composite sequence makes its reads before its writes. -/

/-- Two states that agree on all that the answer of a write depends on. -/
structure Alike (s s' : State) : Prop where
  profile : s'.profile = s.profile
  chsel : s'.chsel = s.chsel
  draws : s'.draws = s.draws
  response : s'.response = s.response

/-- Two states that agree besides on all that a read can see. -/
structure SameView (s s' : State) : Prop extends Alike s s' where
  pdef : ∀ c, s.chsel = some (.one c) → ∀ a, s'.pdefAt c a = s.pdefAt c a
  wram : ∀ c, s.chsel = some (.one c) → ∀ a, s'.sampleAt c a = s.sampleAt c a
  misc : ∀ a, s'.miscAt a = s.miscAt a

/-- Where the first is not refused, neither is the second, and what they leave is related. -/
def Tracks {α : Type} (R : α → α → Prop) (x x' : Except Refusal α) : Prop :=
  ∀ a, x = .ok a → ∃ a', x' = .ok a' ∧ R a a'

/-- Where the first read is not refused, neither is the second; both have the same value, and leave related states. -/
def TracksRead {α : Type} (x x' : Except Refusal (α × State)) : Prop :=
  ∀ v t, x = .ok (v, t) → ∃ t', x' = .ok (v, t') ∧ SameView t t'

/-- Two endings with the same response. -/
def SameEnding (e e' : Ending) : Prop := e'.close.response = e.close.response

/-- Where the first outcome is a next state, so is the second, with the same response. -/
def SameAnswer (o o' : Host.Outcome State Fault Refusal) : Prop :=
  ∀ t, o = .next t → ∃ t', o' = .next t' ∧ t'.response = t.response

theorem alike_exchange {s s' : State} (h : Alike s s') (f : Frame) (d : List Line) :
    Alike (exchange f d s) (exchange f d s') where
  profile := h.profile
  chsel := h.chsel
  draws := congrArg (· + 1) h.draws
  response := by simp only [exchange, State.deviceErrors, h.draws, h.response]

theorem alike_warn {s s' : State} (h : Alike s s') (ws : List Warning) : Alike (s.warn ws) (s'.warn ws) :=
  { h with response := by simp only [State.warn, h.response] }

theorem sameView_exchange {s s' : State} (h : SameView s s') (f : Frame) (d : List Line) :
    SameView (exchange f d s) (exchange f d s') :=
  { h with toAlike := alike_exchange h.toAlike f d }

theorem sameView_warn {s s' : State} (h : SameView s s') (ws : List Warning) :
    SameView (s.warn ws) (s'.warn ws) :=
  { h with toAlike := alike_warn h.toAlike ws }

/-! ### Writes -/

/-- A store is refused by the profile, the selection and the address, whatever the value. -/
theorem storeAt_alike {s s' : State} (h : Alike s s') (space : Space) (a : Nat) (v v' : Word) :
    Tracks Alike (storeAt space a v s) (storeAt space a v' s') := by
  intro t ht
  have htargets : s'.targets = s.targets := targets_congr h.chsel h.profile
  obtain ⟨t', ht'⟩ : ∃ t', storeAt space a v' s' = .ok t' := by
    rcases storeAt_ok ht with ⟨rfl, ha, chs, hc, -⟩ | ⟨rfl, p, chs, hp, hc, -⟩ | ⟨rfl, -⟩ | ⟨rfl, -⟩
    · exact ⟨storePdef chs a v' s',
        by simp only [storeAt, storeAtPdef, h.profile, htargets, hc, if_neg (Nat.not_le.2 ha)]⟩
    · exact ⟨storePair chs p (unpairWord s'.profile v') s',
        by simp only [storeAt, storeAtWave, h.profile, htargets, hc, hp]⟩
    · exact ⟨_, rfl⟩
    · exact ⟨_, rfl⟩
  obtain ⟨hprofile, -, -, -, hchsel, -, hdraws, -, hresponse⟩ := storeAt_keeps ht
  obtain ⟨hprofile', -, -, -, hchsel', -, hdraws', -, hresponse'⟩ := storeAt_keeps ht'
  exact ⟨t', ht', by rw [hprofile, hprofile', h.profile], by rw [hchsel, hchsel', h.chsel],
    by rw [hdraws, hdraws', h.draws], by rw [hresponse, hresponse', h.response]⟩

theorem devStage_alike {s s' : State} (h : Alike s s') (v : Word) :
    Tracks Alike (devStage v s) (devStage v s') := by
  intro t ht
  obtain ⟨hp, rfl⟩ := devStage_ok ht
  have hstaged : Alike { s with staged := some v } { s' with staged := some v } := { h with }
  exact ⟨_, by simp only [devStage, h.profile, hp], alike_exchange hstaged _ _⟩

theorem devCommit_alike {s s' : State} (h : Alike s s') (space : Space) (a : Addr) :
    Tracks Alike (devCommit space a s) (devCommit space a s') := by
  intro t ht
  obtain ⟨hp, u, hu, rfl⟩ := devCommit_ok ht
  obtain ⟨u', hu', hk⟩ := storeAt_alike h space a.toNat s.committed s'.committed u hu
  have hunstaged : Alike { u with staged := none } { u' with staged := none } := { hk with }
  exact ⟨_, by simp only [devCommit, h.profile, hp, hu'], alike_exchange hunstaged _ _⟩

theorem devUwrite_alike {s s' : State} (h : Alike s s') (space : Space) (w : Word48) :
    Tracks Alike (devUwrite space w s) (devUwrite space w s') := by
  intro t ht
  obtain ⟨hp, u, hu, rfl⟩ := devUwrite_ok ht
  obtain ⟨u', hu', hk⟩ := storeAt_alike h space (word48Address w).toNat (word48Value w) (word48Value w) u hu
  exact ⟨_, by simp only [devUwrite, h.profile, hp, hu'], alike_exchange hk _ _⟩

theorem regWrite_alike {s s' : State} (h : Alike s s') (space : Space) (a v : Nat) :
    Tracks Alike (regWrite space a v s) (regWrite space a v s') := by
  intro t ht
  rcases regWrite_ok ht with ⟨hp, u, hu, hc⟩ | ⟨hp, hu⟩
  · obtain ⟨u', hu', hk⟩ := devStage_alike h _ u hu
    obtain ⟨t', ht', hk'⟩ := devCommit_alike hk space _ t hc
    exact ⟨t', by simp only [regWrite, h.profile, hp, hu', ht'], hk'⟩
  · obtain ⟨t', ht', hk⟩ := devUwrite_alike h space _ t hu
    exact ⟨t', by simp only [regWrite, h.profile, hp, ht'], hk⟩

theorem regWrites_alike {s s' : State} (h : Alike s s') (space : Space) (ws : List (Nat × Word)) :
    Tracks Alike (regWrites space ws s) (regWrites space ws s') := by
  intro t ht
  induction ws generalizing s s' with
  | nil => cases ht; exact ⟨s', rfl, h⟩
  | cons aw ws ih =>
    obtain ⟨u, hu, hrest⟩ := regWrites_cons.1 ht
    obtain ⟨u', hu', hk⟩ := regWrite_alike h space _ _ u hu
    obtain ⟨t', ht', hk'⟩ := ih hk hrest
    exact ⟨t', regWrites_cons.2 ⟨u', hu', ht'⟩, hk'⟩

/-! ### Selection -/

theorem devChsel_alike {s s' : State} (h : Alike s s') (c : Nat) :
    Tracks Alike (devChsel c s) (devChsel c s') := by
  intro t ht
  obtain ⟨sel, hs, rfl⟩ := devChsel_ok ht
  have hselected : Alike { s with chsel := some sel } { s' with chsel := some sel } := { h with chsel := rfl }
  exact ⟨_, by simp only [devChsel, h.profile, hs], alike_exchange hselected _ _⟩

theorem selectAndRecord_alike {s s' : State} (h : Alike s s') (c : Nat) :
    Tracks Alike (selectAndRecord c s) (selectAndRecord c s') := by
  intro t ht
  obtain ⟨u, hu, rfl⟩ := selectAndRecord_ok ht
  obtain ⟨u', hu', hk⟩ := devChsel_alike h c u hu
  exact ⟨{ u' with hostCache := u'.chsel }, by simp only [selectAndRecord, hu'], { hk with }⟩

theorem broadcast_alike {s s' : State} (h : Alike s s') (all : Bool) :
    Tracks Alike (broadcast all s) (broadcast all s') := by
  cases all with
  | false => rintro _ ⟨⟩; exact ⟨s', rfl, h⟩
  | true =>
    simp only [broadcast, if_true, h.profile]
    exact selectAndRecord_alike h s.profile.chAll

/-! ### Reads -/

theorem loadPdef_sameView {s s' : State} (h : SameView s s') {a : Nat} {w : Word} (hw : loadPdef a s = .ok w) :
    loadPdef a s' = .ok w := by
  obtain ⟨ha, c, hc, rfl⟩ := loadPdef_ok hw
  simp only [loadPdef, h.profile, if_neg (Nat.not_le.2 ha), source_ok (h.chsel.trans hc), h.pdef c hc]

theorem loadWave_sameView {s s' : State} (h : SameView s s') {a : Nat} {w : Word} (hw : loadWave a s = .ok w) :
    loadWave a s' = .ok w := by
  obtain ⟨p, c, hp, hc, rfl⟩ := loadWave_ok hw
  simp only [loadWave, h.profile, hp, source_ok (h.chsel.trans hc), h.wram c hc]

/-- A read of a value that both states hold. -/
theorem answered_sameView {s s' : State} (h : SameView s s') (c : Cmd) (a : Addr) {x x' : Except Refusal Word}
    (hx : ∀ w, x = .ok w → x' = .ok w) : TracksRead (answered c a s x) (answered c a s' x') := by
  intro w t ht
  obtain ⟨hw, rfl⟩ := answered_ok ht
  exact ⟨_, by simp only [answered, hx w hw, h.profile], sameView_exchange h _ _⟩

theorem devReadPdef_sameView {s s' : State} (h : SameView s s') (a : Addr) :
    TracksRead (devReadPdef a s) (devReadPdef a s') :=
  answered_sameView h _ a fun _ => loadPdef_sameView h

theorem devReadWave_sameView {s s' : State} (h : SameView s s') (a : Addr) :
    TracksRead (devReadWave a s) (devReadWave a s') :=
  answered_sameView h _ a fun _ => loadWave_sameView h

theorem devReadMisc_sameView {s s' : State} (h : SameView s s') (a : Addr) :
    TracksRead (devReadMisc a s) (devReadMisc a s') :=
  answered_sameView h _ a fun w hw => by rw [h.misc, hw]

theorem readQuad_sameView {s s' : State} (h : SameView s s') (e : Nat) :
    TracksRead (readQuad e s) (readQuad e s') := by
  intro q t ht
  obtain ⟨s0, s1, s2, h0, h1, h2, h3⟩ := readQuad_ok ht
  obtain ⟨s0', h0', k0⟩ := devReadPdef_sameView h _ _ _ h0
  obtain ⟨s1', h1', k1⟩ := devReadPdef_sameView k0 _ _ _ h1
  obtain ⟨s2', h2', k2⟩ := devReadPdef_sameView k1 _ _ _ h2
  obtain ⟨t', h3', k3⟩ := devReadPdef_sameView k2 _ _ _ h3
  exact ⟨t', by simp only [readQuad, h0', h1', h2', h3'], k3⟩

theorem scanSlots_sameView {s s' : State} (h : SameView s s') (n e : Nat) :
    TracksRead (scanSlots n e s) (scanSlots n e s') := by
  intro slot t ht
  induction n generalizing e s s' with
  | zero => cases ht; exact ⟨s', rfl, h⟩
  | succ n ih =>
    simp only [scanSlots] at ht
    split at ht
    · cases ht
    next r0 r1 r2 r3 u hq =>
    obtain ⟨u', hq', hk⟩ := readQuad_sameView h e _ _ hq
    simp only [scanSlots, hq', h.profile]
    split at ht
    next hempty => cases ht; exact ⟨u', if_pos hempty, hk⟩
    next hfull => rw [if_neg hfull]; exact ih hk (e + 1) ht

theorem findSlot_sameView {s s' : State} (h : SameView s s') : TracksRead (findSlot s) (findSlot s') := by
  intro e t ht
  simp only [findSlot] at ht
  split at ht
  · cases ht
  next slot u hscan =>
    cases ht
    obtain ⟨t', hscan', hk⟩ := scanSlots_sameView h _ _ _ _ hscan
    exact ⟨t', by simp only [findSlot, h.profile, hscan'], hk⟩
  next u hscan =>
    cases ht
    obtain ⟨u', hscan', hk⟩ := scanSlots_sameView h _ _ _ _ hscan
    exact ⟨_, by simp only [findSlot, h.profile, hscan'], sameView_warn hk _⟩

theorem chooseSlot_sameView {s s' : State} (h : SameView s s') (entry : Option Nat) :
    TracksRead (chooseSlot entry s) (chooseSlot entry s') := by
  cases entry with
  | none => exact findSlot_sameView h
  | some e => rintro _ _ ⟨⟩; exact ⟨s', rfl, h⟩

theorem readPairs_sameView {s s' : State} (h : SameView s s') (n p : Nat) :
    TracksRead (readPairs n p s) (readPairs n p s') := by
  intro samples t ht
  induction n generalizing p s s' samples with
  | zero => cases ht; exact ⟨s', rfl, h⟩
  | succ n ih =>
    simp only [readPairs] at ht
    split at ht
    · cases ht
    next w u hread =>
    split at ht
    · cases ht
    next rest v hrest =>
    cases ht
    obtain ⟨u', hread', hk⟩ := devReadWave_sameView h _ _ _ hread
    obtain ⟨t', hrest', hk'⟩ := ih hk (p + 1) rest hrest
    exact ⟨t', by simp only [readPairs, h.profile, hread', hrest'], hk'⟩

/-! ### Endings -/

theorem sameEnding_done {s s' : State} (h : Alike s s') (r : Result) : SameEnding (.done r s) (.done r s') := by
  simp only [SameEnding, Ending.close, State.succeed, h.response]

theorem sameEnding_failed {s s' : State} (h : Alike s s') (e : OpError) :
    SameEnding (.failed e s) (.failed e s') := by
  simp only [SameEnding, Ending.close, State.raise, h.response]

/-- An error after reads answers the frames of those reads. -/
theorem sameEnding_probed {s s' t t' : State} (h : Alike s s') (k : Alike t t') (e : OpError) :
    SameEnding (.failed e (s.probedTo t)) (.failed e (s'.probedTo t')) := by
  simp only [SameEnding, Ending.close, State.raise, State.probedTo, h.response, k.response]

theorem written_sameEnding {x x' : Except Refusal State} (h : Tracks Alike x x') :
    Tracks SameEnding (written x) (written x') := by
  intro e he
  obtain ⟨t, hx, rfl⟩ := written_ok he
  obtain ⟨t', hx', hk⟩ := h t hx
  exact ⟨_, by simp only [hx', written], sameEnding_done hk _⟩

theorem readResult_sameEnding {x x' : Except Refusal (Word × State)} (h : TracksRead x x') :
    Tracks SameEnding (readResult x) (readResult x') := by
  intro e he
  obtain ⟨w, t, hx, rfl⟩ := readResult_ok he
  obtain ⟨t', hx', hk⟩ := h _ _ hx
  exact ⟨_, by simp only [hx', readResult], sameEnding_done hk.toAlike _⟩

/-! ### The composite sequences -/

theorem selectChannel_sameEnding {s s' : State} (h : Alike s s') (c : ChannelArg) :
    Tracks SameEnding (selectChannel c s) (selectChannel c s') := by
  simp only [selectChannel, h.profile]
  cases channelOperand s.profile c with
  | error e => rintro _ ⟨⟩; exact ⟨_, rfl, sameEnding_failed h e⟩
  | ok n => exact written_sameEnding (selectAndRecord_alike h n)

theorem writePdef_sameEnding {s s' : State} (h : SameView s s') (w : WaveOperand) (st : Nat) (g f : Rat) (su : Nat)
    (entry : Option Nat) : Tracks SameEnding (writePdef w st g f su entry s) (writePdef w st g f su entry s') := by
  intro e he
  obtain ⟨n, t, hc, hend⟩ := writePdef_ok he
  obtain ⟨t', hc', hk⟩ := chooseSlot_sameView h entry _ _ hc
  rcases hend with ⟨err, henc, rfl⟩ | ⟨u, writes, ws, henc, hu, rfl⟩
  · exact ⟨_, writePdef_error hc' (by rw [h.profile, henc]), sameEnding_probed h.toAlike hk.toAlike err⟩
  · obtain ⟨u', hu', hk'⟩ := regWrites_alike (alike_warn hk.toAlike ws) .pdef writes u hu
    exact ⟨_, by simp only [writePdef, hc', h.profile, henc, hu'], sameEnding_done hk' _⟩

theorem writeTable_sameEnding {s s' : State} (h : Alike s s') (start : Nat) (samples : List Nat) (all : Bool) :
    Tracks SameEnding (writeTable start samples all s) (writeTable start samples all s') := by
  simp only [writeTable, h.profile]
  cases tableWords s.profile start samples with
  | error e => rintro _ ⟨⟩; exact ⟨_, rfl, sameEnding_failed h e⟩
  | ok table =>
    obtain ⟨words, ws⟩ := table
    intro e he
    cases hb : broadcast all s with
    | error r => simp only [hb] at he; cases he
    | ok t =>
      obtain ⟨t', hb', hk⟩ := broadcast_alike h all t hb
      simp only [hb, hb'] at he ⊢
      exact written_sameEnding (regWrites_alike (alike_warn hk ws) .wave _) e he

theorem readTable_sameEnding {s s' : State} (h : SameView s s') (start length : Nat) :
    Tracks SameEnding (readTable start length s) (readTable start length s') := by
  intro e he
  simp only [readTable] at he
  simp only [readTable, h.profile]
  split at he
  next hover => cases he; exact ⟨_, if_pos hover, sameEnding_failed h.toAlike _⟩
  next hfits =>
  rw [if_neg hfits]
  split at he
  next hzero => cases he; exact ⟨_, if_pos hzero, sameEnding_done h.toAlike _⟩
  next hpos =>
  rw [if_neg hpos]
  split at he
  · cases he
  next samples t hread =>
  cases he
  obtain ⟨t', hread', hk⟩ := readPairs_sameView h _ _ _ _ hread
  exact ⟨_, by simp only [hread'], sameEnding_done hk.toAlike _⟩

/-! ### The queries and the reset -/

/-- The masks the sequencer shows depend on the draws alone (R35). -/
theorem errorMapping_alike {s s' : State} (h : Alike s s') : s'.errorMapping = s.errorMapping := by
  simp only [State.errorMapping, State.cherrAt, h.profile, h.draws]

theorem freeLines_alike {s s' : State} (h : Alike s s') : s'.freeLines = s.freeLines := by
  simp only [State.freeLines, h.draws]

theorem devErrq_alike {s s' : State} (h : Alike s s') : Alike (devErrq s) (devErrq s') := by
  simp only [devErrq, h.profile]
  exact alike_exchange h _ _

theorem devVersion_alike {s s' : State} (h : Alike s s') : Alike (devVersion s) (devVersion s') := by
  simp only [devVersion, h.profile, freeLines_alike h]
  exact alike_exchange h _ _

theorem devReset_alike {s s' : State} (h : Alike s s') : Alike (devReset s) (devReset s') := by
  have hblock : Alike (resetBlock s) (resetBlock s') := { h with chsel := rfl }
  simp only [devReset, h.profile, freeLines_alike h]
  exact alike_exchange hblock _ _

/-- A body that neither fails nor is refused. -/
theorem tracks_done {s s' : State} (h : Alike s s') {r r' : Result} (hr : r' = r) :
    Tracks SameEnding (.ok (.done r s)) (.ok (.done r' s')) := by
  rintro _ ⟨⟩
  exact ⟨_, rfl, hr ▸ sameEnding_done h r'⟩

theorem readErrors_sameEnding {s s' : State} (h : Alike s s') :
    Tracks SameEnding (readErrors s) (readErrors s') := by
  intro e he
  rcases readErrors_ok he with ⟨rs, hrs, rfl⟩ | ⟨err, herr, rfl⟩
  · exact ⟨_, by simp only [readErrors, h.profile, errorMapping_alike h, hrs], sameEnding_done (devErrq_alike h) _⟩
  · exact ⟨_, by simp only [readErrors, h.profile, errorMapping_alike h, herr],
      sameEnding_probed h (devErrq_alike h) err⟩

/-! ### Every operation -/

/-- A function operation whose value is the same in two states answers alike. -/
theorem runFunction_sameAnswer {i : Instr} {f : State → Except OpError (Result × List Warning)} {s s' : State}
    (hi : ∀ u, exec i u = runFunction (f u) u) (hf : f s' = f s) : SameAnswer (exec i s) (exec i s') := by
  intro t ht
  rw [hi] at ht ⊢
  rw [hf]
  rcases runFunction_next ht with ⟨r, ws, hv, rfl⟩ | ⟨e, hv, rfl⟩
  · exact ⟨(s'.start.warn ws).succeed r, by rw [hv, runFunction], rfl⟩
  · exact ⟨s'.start.raise e, by rw [hv, runFunction], rfl⟩

/-- A command whose body has the same ending in two states answers alike. -/
theorem runCommand_sameAnswer {i : Instr} {f : State → Except Refusal Ending} {s s' : State}
    (hi : ∀ u, exec i u = runCommand f u) (hf : Tracks SameEnding (f s.start) (f s'.start)) :
    SameAnswer (exec i s) (exec i s') := by
  intro t ht
  rw [hi] at ht ⊢
  obtain ⟨e, he, rfl⟩ := runCommand_next ht
  obtain ⟨e', he', hend⟩ := hf e he
  exact ⟨_, runCommand_of_ok he', hend⟩

/-- A write command is its body, without a data response. -/
theorem writeCommand_sameAnswer {i : Instr} {f : State → Except Refusal State} {s s' : State}
    (hi : ∀ u, exec i u = runCommand (fun s => written (f s)) u) (hf : Tracks Alike (f s.start) (f s'.start)) :
    SameAnswer (exec i s) (exec i s') :=
  runCommand_sameAnswer hi (written_sameEnding hf)

/-- A read command is its body, with the register's value. -/
theorem readCommand_sameAnswer {i : Instr} {f : State → Except Refusal (Word × State)} {s s' : State}
    (hi : ∀ u, exec i u = runCommand (fun s => readResult (f s)) u) (hf : TracksRead (f s.start) (f s'.start)) :
    SameAnswer (exec i s) (exec i s') :=
  runCommand_sameAnswer hi (readResult_sameEnding hf)

theorem sameView_start {s s' : State} {c : Nat} (h : AgreeOn c s s') : SameView s.start s'.start := by
  obtain ⟨hsel, hsel'⟩ := h.selected
  have only : ∀ d, s.chsel = some (.one d) → d = c := fun d hd =>
    Selection.one.inj (Option.some.inj (hd.symm.trans hsel))
  exact {
    profile := h.host.profile
    chsel := hsel'.trans hsel.symm
    draws := h.draws
    response := rfl
    pdef := fun d hd a => only d hd ▸ h.pdef a
    wram := fun d hd a => only d hd ▸ h.wram a
    misc := h.common.misc }

theorem exec_sameAnswer (i : Instr) {s s' : State} {c : Nat} (h : AgreeOn c s s') :
    SameAnswer (exec i s) (exec i s') := by
  have hp : s'.profile = s.profile := h.host.profile
  have view : SameView s.start s'.start := sameView_start h
  have alike : Alike s.start s'.start := view.toAlike
  cases i with
  | evalpoly n x cs => exact runFunction_sameAnswer (exec_evalpoly n x cs) (by rw [hp])
  | pshape now st rise f hold g cs => exact runFunction_sameAnswer (exec_pshape now st rise f hold g cs) (by rw [hp])
  | synth n cs => exact runFunction_sameAnswer (exec_synth n cs) (by rw [hp])
  | v2dac v r m => exact runFunction_sameAnswer (exec_v2dac v r m) (by rw [hp])
  | packpair a b => exact runFunction_sameAnswer (exec_packpair a b) (by rw [hp])
  | unpackpair w => exact runFunction_sameAnswer (exec_unpackpair w) (by rw [hp])
  | packtable vs => exact runFunction_sameAnswer (exec_packtable vs) (by rw [hp])
  | mkwaveid n a => exact runFunction_sameAnswer (exec_mkwaveid n a) (by rw [hp])
  | unwaveid w => exact runFunction_sameAnswer (exec_unwaveid w) rfl
  | encpdef e st w g f su => exact runFunction_sameAnswer (exec_encpdef e st w g f su) (by rw [hp])
  | decpdef r0 r1 r2 r3 => exact runFunction_sameAnswer (exec_decpdef r0 r1 r2 r3) (by rw [hp])
  | encw a v b => exact runFunction_sameAnswer (exec_encw a v b) (by rw [hp])
  | deccherr m => exact runFunction_sameAnswer (exec_deccherr m) (by rw [hp])
  | illegalFn op => exact runFunction_sameAnswer (exec_illegalFn op) rfl
  | regdump | chen | illegalFrame => intro t ht; cases ht
  | version =>
    exact runCommand_sameAnswer exec_version
      (tracks_done (devVersion_alike alike) (congrArg Result.lines (freeLines_alike alike)))
  | reset => exact runCommand_sameAnswer exec_reset (tracks_done (devReset_alike alike) rfl)
  | errq =>
    exact runCommand_sameAnswer exec_errq
      (tracks_done (devErrq_alike alike) (congrArg Result.mapping (errorMapping_alike alike)))
  | chsel n => exact writeCommand_sameAnswer (exec_chsel n) (devChsel_alike alike n)
  | stage v => exact writeCommand_sameAnswer (exec_stage v) (devStage_alike alike v)
  | commitPdef a => exact writeCommand_sameAnswer (exec_commitPdef a) (devCommit_alike alike _ a)
  | commitWave a => exact writeCommand_sameAnswer (exec_commitWave a) (devCommit_alike alike _ a)
  | commitDc a => exact writeCommand_sameAnswer (exec_commitDc a) (devCommit_alike alike _ a)
  | commitMisc a => exact writeCommand_sameAnswer (exec_commitMisc a) (devCommit_alike alike _ a)
  | uwritePdef w => exact writeCommand_sameAnswer (exec_uwritePdef w) (devUwrite_alike alike _ w)
  | uwriteWave w => exact writeCommand_sameAnswer (exec_uwriteWave w) (devUwrite_alike alike _ w)
  | uwriteDc w => exact writeCommand_sameAnswer (exec_uwriteDc w) (devUwrite_alike alike _ w)
  | uwriteMisc w => exact writeCommand_sameAnswer (exec_uwriteMisc w) (devUwrite_alike alike _ w)
  | readPdef a => exact readCommand_sameAnswer (exec_readPdef a) (devReadPdef_sameView view a)
  | readWave a => exact readCommand_sameAnswer (exec_readWave a) (devReadWave_sameView view a)
  | readMisc a => exact readCommand_sameAnswer (exec_readMisc a) (devReadMisc_sameView view a)
  | regwritePdef a v => exact writeCommand_sameAnswer (exec_regwritePdef a v) (regWrite_alike alike _ a v)
  | regwriteWave a v => exact writeCommand_sameAnswer (exec_regwriteWave a v) (regWrite_alike alike _ a v)
  | regwriteDc a v => exact writeCommand_sameAnswer (exec_regwriteDc a v) (regWrite_alike alike _ a v)
  | regwriteMisc a v => exact writeCommand_sameAnswer (exec_regwriteMisc a v) (regWrite_alike alike _ a v)
  | selectch n => exact runCommand_sameAnswer (exec_selectch n) (selectChannel_sameEnding alike n)
  | writepdef w st g f su e =>
    exact runCommand_sameAnswer (exec_writepdef w st g f su e) (writePdef_sameEnding view w st g f su e)
  | findslot =>
    refine runCommand_sameAnswer exec_findslot fun e he => ?_
    split at he
    · cases he
    next n t hfind =>
      cases he
      obtain ⟨t', hfind', hk⟩ := findSlot_sameView view n t hfind
      exact ⟨_, by simp only [hfind'], sameEnding_done hk.toAlike _⟩
  | writewave a vs all => exact runCommand_sameAnswer (exec_writewave a vs all) (writeTable_sameEnding alike a vs all)
  | readwave a n => exact runCommand_sameAnswer (exec_readwave a n) (readTable_sameEnding view a n)
  | clearpdef =>
    refine writeCommand_sameAnswer exec_clearpdef ?_
    rw [alike.profile]
    exact regWrites_alike alike _ _
  | clearwave =>
    refine writeCommand_sameAnswer exec_clearwave ?_
    rw [alike.profile]
    exact regWrites_alike alike _ _
  | readerrs => exact runCommand_sameAnswer exec_readerrs (readErrors_sameEnding alike)

end Sys2Proof.Machine

open Sys2Proof Sys2Proof.Machine

/-- Settles O1: nothing is written, staged or selected, and `P0` meets its constraints. -/
theorem resetMeetsInvariant : Obligations.ResetMeetsInvariant := by
  refine ⟨?inv, rfl, rfl⟩
  exact {
    profile := profile_p0_wf
    pc := Nat.le_refl 0
    memory := reset_memoryWf
    pdef := nofun
    wram := nofun
    dcreg := nofun
    misc := nofun
    chsel := selectionValid_none _
    hostCache := selectionValid_none _
    staged := fun _ => rfl
    epoch := Nat.zero_lt_one
    answer := fun he => absurd rfl he
    flags := List.nodup_nil }

/-- Settles O2: the operation keeps the invariant, and the index advances past a request that stands in the
program. -/
theorem everyStepKeepsInvariant : Obligations.EveryStepKeepsInvariant := by
  intro s t hs h
  obtain ⟨hpc, i, u, hx, rfl⟩ := step_next h
  have hu : Inv u := inv_exec hs hx
  have hhost : SameHost s u := (exec_keepsUnlisted hx).host
  have hadvance : u.pc + 1 ≤ u.program.length := by rw [hhost.pc, hhost.program]; exact hpc
  exact { hu with pc := hadvance }

/-- Settles O4: every move of an operation keeps what the table of R39 does not list for it. -/
theorem onlyListedWritersWrite : Obligations.OnlyListedWritersWrite := by
  intro i s t hx
  obtain ⟨host, pdef, wram, dc, misc, staged, chsel⟩ := exec_keepsUnlisted hx
  exact ⟨host, pdef, wram, dc, misc, staged, chsel⟩

/-- Settles O5: an operation that selects writes no space, and the others have the one channel as their target
throughout. -/
theorem otherChannelsUntouched : Obligations.OtherChannelsUntouched := by
  intro i s t c hc hr hb hx
  obtain hn | hn := selects_or_writes i hr hb
  · exact exec_othersAs hx hc hr hn
  · have hkeeps := exec_keepsUnlisted hx
    exact fun ch _ a => ⟨hkeeps.pdef (hn .pdef) ch a, hkeeps.wram (hn .wave) ch a⟩

/-- Settles O48: the reset of the block lists no element, so that each reads the draw of the new epoch, and then the
reset byte is one exchange. -/
theorem resetRedraws : Obligations.ResetRedraws := by
  intro s
  refine ⟨(devReset s.start).succeed .done, rfl, ⟨rfl, rfl, rfl⟩, rfl, ⟨rfl, rfl⟩, rfl, rfl, rfl, ?_⟩
  exact ⟨fun _ _ => rfl, fun _ _ => rfl, fun _ => rfl, fun _ => rfl, Nat.lt_succ_self _⟩

/-- Settles O6: the selected channel's context is all that a read sees, and a write's answer needs none. -/
theorem answersIgnoreOtherChannels : Obligations.AnswersIgnoreOtherChannels :=
  fun i _ _ t _ h hx => exec_sameAnswer i h t hx
end

section
/-! PROOFS. The refusals (R49, R61, R75, R115): what a write and a read that complete require of the selection, the
address and the revision, carried from the device commands to the composite sequences; and what reads leave alone. -/

namespace Sys2Proof.Machine

open Sys2Proof

/-! ### A command is refused where its body has no ending -/

theorem command_refused {i : Instr} {f : State → Except Refusal Ending} {s : State}
    (hi : exec i s = runCommand f s) (h : ∀ e, f s.start ≠ .ok e) : ∃ r, exec i s = .refused r := by
  cases hf : f s.start with
  | ok e => exact absurd hf (h e)
  | error r => exact ⟨r, hi.trans (runCommand_of_error hf)⟩

theorem writeCommand_refused {i : Instr} {f : State → Except Refusal State} {s : State}
    (hi : exec i s = runCommand (fun s => written (f s)) s) (h : ∀ t, f s.start ≠ .ok t) :
    ∃ r, exec i s = .refused r := by
  refine command_refused hi fun e he => ?_
  obtain ⟨t, ht, -⟩ := written_ok he
  exact h t ht

theorem readCommand_refused {i : Instr} {f : State → Except Refusal (Word × State)} {s : State}
    (hi : exec i s = runCommand (fun s => readResult (f s)) s) (h : ∀ w t, f s.start ≠ .ok (w, t)) :
    ∃ r, exec i s = .refused r := by
  refine command_refused hi fun e he => ?_
  obtain ⟨w, t, ht, -⟩ := readResult_ok he
  exact h w t ht

/-- The refusal of a write command is its body's. -/
theorem writeCommand_refused_eq {i : Instr} {f : State → Except Refusal State} {s : State} {r : Refusal}
    (hi : exec i s = runCommand (fun s => written (f s)) s) (h : f s.start = .error r) : exec i s = .refused r :=
  hi.trans (runCommand_of_error (by simp only [h, written]))

/-! ### What a write requires (R49, R115 a) -/

/-- The spaces whose commands go to the selected channel; DC and MISC belong to no channel (R115). -/
def Space.ChannelScoped (space : Space) : Prop := space = .pdef ∨ space = .wave

/-- What a write to an address of a space requires: a selection where the space is channel-scoped, and an address
in the used range. -/
structure WriteAllowed (P : Profile) (sel : Option Selection) (space : Space) (a : Nat) : Prop where
  selected : space.ChannelScoped → sel ≠ none
  pdef : space = .pdef → a < 4 * P.nSlots
  wave : space = .wave → ∃ p, p < P.waveRamCapacity / 2 ∧ a = waveRegAddr P p

theorem targets_selected {s : State} {chs : List Nat} (h : s.targets = .ok chs) : s.chsel ≠ none := by
  intro hc
  simp only [State.targets, hc] at h
  cases h

theorem storeAt_allowed {space : Space} {a : Nat} {v : Word} {s t : State} (h : storeAt space a v s = .ok t) :
    WriteAllowed s.profile s.chsel space a := by
  rcases storeAt_ok h with ⟨rfl, ha, chs, hc, -⟩ | ⟨rfl, p, chs, hp, hc, -⟩ | ⟨rfl, -⟩ | ⟨rfl, -⟩
  case inl => exact ⟨fun _ => targets_selected hc, fun _ => ha, nofun⟩
  case inr.inl => exact ⟨fun _ => targets_selected hc, nofun, fun _ => ⟨p, pairAt_some hp⟩⟩
  all_goals exact ⟨nofun, nofun, nofun⟩

theorem devCommit_allowed {space : Space} {a : Addr} {s t : State} (h : devCommit space a s = .ok t) :
    WriteAllowed s.profile s.chsel space a.toNat := by
  obtain ⟨-, u, hu, -⟩ := devCommit_ok h
  exact storeAt_allowed hu

theorem devUwrite_allowed {space : Space} {w : Word48} {s t : State} (h : devUwrite space w s = .ok t) :
    WriteAllowed s.profile s.chsel space (w.toNat / 2 ^ 32) := by
  obtain ⟨-, u, hu, -⟩ := devUwrite_ok h
  exact word48Address_toNat w ▸ storeAt_allowed hu

/-- A register write masks its address to 16 bits under either revision (R130). -/
theorem regWrite_allowed {space : Space} {a v : Nat} {s t : State} (h : regWrite space a v s = .ok t) :
    WriteAllowed s.profile s.chsel space (a % 2 ^ 16) := by
  rcases regWrite_ok h with ⟨-, u, hu, hcommit⟩ | ⟨-, hwrite⟩
  · obtain ⟨-, rfl⟩ := devStage_ok hu
    have hallowed := devCommit_allowed hcommit
    rwa [BitVec.toNat_ofNat] at hallowed
  · have haddr : (packWord48 a v).toNat / 2 ^ 32 = a % 2 ^ 16 := by rw [packWord48_toNat]; omega
    exact haddr ▸ devUwrite_allowed hwrite

/-- With nothing selected, the first of the register writes to a channel-scoped space is refused. -/
theorem regWrites_ne_ok_of_unselected {space : Space} {ws : List (Nat × Word)} {s : State}
    (hspace : space.ChannelScoped) (hc : s.chsel = none) (hne : ws ≠ []) (t : State) :
    regWrites space ws s ≠ .ok t := by
  obtain ⟨aw, rest, rfl⟩ := List.exists_cons_of_ne_nil hne
  intro h
  obtain ⟨u, hu, -⟩ := regWrites_cons.1 h
  exact (regWrite_allowed hu).selected hspace hc

/-! ### What a read requires (R49, R115 b) -/

theorem devReadPdef_needs {a : Addr} {s t : State} {w : Word} (h : devReadPdef a s = .ok (w, t)) :
    a.toNat < 4 * s.profile.nSlots ∧ ∃ c, s.chsel = some (.one c) := by
  obtain ⟨hload, -⟩ := answered_ok h
  obtain ⟨ha, c, hc, -⟩ := loadPdef_ok hload
  exact ⟨ha, c, hc⟩

theorem devReadWave_needs {a : Addr} {s t : State} {w : Word} (h : devReadWave a s = .ok (w, t)) :
    (∃ p, p < s.profile.waveRamCapacity / 2 ∧ a.toNat = waveRegAddr s.profile p)
      ∧ ∃ c, s.chsel = some (.one c) := by
  obtain ⟨hload, -⟩ := answered_ok h
  obtain ⟨p, c, hp, hc, -⟩ := loadWave_ok hload
  exact ⟨⟨p, pairAt_some hp⟩, c, hc⟩

/-- With nothing or all selected no channel is the source of a read. -/
theorem not_one_selected {sel : Option Selection} (h : sel = none ∨ sel = some .all) :
    ¬ ∃ c, sel = some (.one c) := by
  rintro ⟨c, rfl⟩
  exact h.elim nofun nofun

/-- A scan that visits a slot reads its first register. -/
theorem scanSlots_selected {n e : Nat} {s t : State} {slot : Option Nat}
    (h : scanSlots (n + 1) e s = .ok (slot, t)) : ∃ c, s.chsel = some (.one c) := by
  simp only [scanSlots] at h
  split at h
  · cases h
  next hq =>
    obtain ⟨_, _, _, hread, -⟩ := readQuad_ok hq
    exact (devReadPdef_needs hread).2

theorem findSlot_selected {s t : State} {e : Nat} (hn : 0 < s.profile.nSlots) (h : findSlot s = .ok (e, t)) :
    ∃ c, s.chsel = some (.one c) := by
  obtain ⟨n, hn⟩ := Nat.exists_eq_add_one.2 hn
  simp only [findSlot, hn] at h
  split at h
  · cases h
  next hscan => exact scanSlots_selected hscan
  next hscan => exact scanSlots_selected hscan

theorem readPairs_selected {n p : Nat} {s t : State} {vs : List Nat} (h : readPairs (n + 1) p s = .ok (vs, t)) :
    ∃ c, s.chsel = some (.one c) := by
  simp only [readPairs] at h
  split at h
  · cases h
  next hread => exact (devReadWave_needs hread).2

/-- A table read of at least one sample, past its capacity check, reads at least one pair (R134). -/
theorem readTable_selected {start length : Nat} {s : State} {e : Ending} (hpos : 0 < length)
    (hcap : start + length ≤ s.profile.waveRamCapacity) (h : readTable start length s = .ok e) :
    ∃ c, s.chsel = some (.one c) := by
  obtain ⟨n, hn⟩ : ∃ n, pairsCovering start length = n + 1 :=
    Nat.exists_eq_add_one.2 (by simp only [pairsCovering]; omega)
  simp only [readTable, if_neg (Nat.not_lt.2 hcap), if_neg (Nat.ne_of_gt hpos), hn] at h
  split at h
  · cases h
  next hread => exact readPairs_selected hread

/-! ### The revision (R61) and the operand of `CHSEL` (R75, R124) -/

theorem devStage_unified {s : State} (h : s.profile.protoRev = .unified) (v : Word) :
    devStage v s = .error (.illegalInRevision .unified) := by
  simp only [devStage, h]

theorem devCommit_unified {s : State} (h : s.profile.protoRev = .unified) (space : Space) (a : Addr) :
    devCommit space a s = .error (.illegalInRevision .unified) := by
  simp only [devCommit, h]

theorem devUwrite_legacy {s : State} (h : s.profile.protoRev = .legacy) (space : Space) (w : Word48) :
    devUwrite space w s = .error (.illegalInRevision .legacy) := by
  simp only [devUwrite, h]

theorem selectionOf_eq_none {P : Profile} {c : Nat} (hc : P.cMaxChannels ≤ c) (hall : c ≠ P.chAll) :
    selectionOf P c = none := by
  rw [selectionOf, if_neg (Nat.not_lt.2 hc), if_neg hall]

/-! ### A table that passes its checks has words to write (R93, R95, R133) -/

/-- A pair of samples that `STRICT` has nothing against is packed. -/
theorem packPair_ok {P : Profile} {a b : Nat} (h : P.strict = false ∨ (a ≤ P.smax ∧ b ≤ P.smax)) :
    ∃ w ws, packPair P a b = .ok (w, ws) := by
  suffices hchecks : ∃ ws, strictness P.strict (pairChecks P a b) = .ok ws by
    obtain ⟨ws, hws⟩ := hchecks
    exact ⟨pairWord P a b, ws, by simp only [packPair, hws]⟩
  rcases h with hlax | ⟨ha, hb⟩
  · rw [hlax]
    exact ⟨_, rfl⟩
  · have hnone : pairChecks P a b = [] := by
      simp only [pairChecks, sampleCheck, checkMax, check, ha, hb, decide_true, if_true, List.append_nil]
    rw [hnone]
    cases P.strict <;> exact ⟨_, rfl⟩

theorem packPairs_ok {P : Profile} {pairs : List (Nat × Nat)}
    (h : ∀ ab ∈ pairs, P.strict = false ∨ (ab.1 ≤ P.smax ∧ ab.2 ≤ P.smax)) :
    ∃ words ws, packPairs P pairs = .ok (words, ws) ∧ words.length = pairs.length := by
  induction pairs with
  | nil => exact ⟨[], [], rfl, rfl⟩
  | cons ab pairs ih =>
    obtain ⟨w, ws, hw⟩ := packPair_ok (h ab List.mem_cons_self)
    obtain ⟨words, flags, hrest, hlen⟩ := ih fun p hp => h p (List.mem_cons_of_mem _ hp)
    exact ⟨w :: words, ws ++ flags, by simp only [packPairs, hw, hrest], by simp only [List.length_cons, hlen]⟩

theorem mem_pairsOf {l : List Nat} {ab : Nat × Nat} (h : ab ∈ pairsOf l) : ab.1 ∈ l ∧ ab.2 ∈ l := by
  induction l using pairsOf.induct with
  | case1 a b rest ih =>
    rcases List.mem_cons.1 h with rfl | hrest
    · simp
    · obtain ⟨h1, h2⟩ := ih hrest
      exact ⟨by simp [h1], by simp [h2]⟩
  | case2 | case3 => cases h

/-- The padding adds no sample other than 0. -/
theorem mem_padEven {l : List Nat} {v : Nat} (h : v ∈ padEven l) : v ∈ l ∨ v = 0 := by
  simp only [padEven] at h
  split at h
  · simpa using h
  · exact .inl h

theorem pairsOf_padEven_ne_nil {l : List Nat} (h : l ≠ []) : pairsOf (padEven l) ≠ [] := by
  match l, h with
  | [a], _ => simp [padEven, pairsOf]
  | a :: b :: rest, _ =>
    simp only [padEven]
    split <;> simp [pairsOf]

/-- A table that is not empty, and whose samples `STRICT` has nothing against, has at least one word. -/
theorem packTable_ok {P : Profile} {samples : List Nat} (hne : samples ≠ [])
    (h : P.strict = false ∨ ∀ v ∈ samples, v ≤ P.smax) :
    ∃ words ws, packTable P samples = .ok (words, ws) ∧ words ≠ [] := by
  have hfit : (∀ v ∈ samples, v ≤ P.smax) → ∀ v ∈ padEven samples, v ≤ P.smax := by
    intro hs v hv
    rcases mem_padEven hv with hv | rfl
    · exact hs v hv
    · exact Nat.zero_le _
  obtain ⟨words, ws, hpack, hlen⟩ := packPairs_ok (P := P) (pairs := pairsOf (padEven samples)) fun ab hab => by
    obtain ⟨h1, h2⟩ := mem_pairsOf hab
    exact h.imp_right fun hs => ⟨hfit hs _ h1, hfit hs _ h2⟩
  refine ⟨words, ws, hpack, fun hw => pairsOf_padEven_ne_nil hne ?_⟩
  rw [← List.length_eq_zero_iff, ← hlen, hw, List.length_nil]

/-- The checks of `WRITEWAVE` passed, its words are those of `PACKTABLE` (R133). -/
theorem tableWords_eq_packTable {P : Profile} {start : Nat} {samples : List Nat} (heven : start % 2 = 0)
    (hcap : start + (samples.length + samples.length % 2) ≤ P.waveRamCapacity) :
    tableWords P start samples = packTable P samples := by
  rw [tableWords, if_neg (by omega), roundUpEven, if_neg (Nat.not_lt.2 hcap)]

theorem writeTable_ne_ok_of_unselected {s : State} (hc : s.chsel = none) {start : Nat} {samples : List Nat}
    (hne : samples ≠ []) (heven : start % 2 = 0)
    (hcap : start + (samples.length + samples.length % 2) ≤ s.profile.waveRamCapacity)
    (hfit : s.profile.strict = false ∨ ∀ v ∈ samples, v ≤ s.profile.smax) (e : Ending) :
    writeTable start samples false s ≠ .ok e := by
  intro h
  obtain ⟨words, ws, hpack, hwords⟩ := packTable_ok hne hfit
  simp only [writeTable, tableWords_eq_packTable heven hcap, hpack, broadcast, Bool.false_eq_true, if_false] at h
  obtain ⟨t, ht, -⟩ := written_ok h
  exact regWrites_ne_ok_of_unselected (.inr rfl) (s := s.warn ws) hc (by simpa [tableWrites] using hwords) t ht

/-! ### Pulse definitions (R102, R131, R135) -/

/-- An `ENCPDEF` without an error has encoded its operands. -/
theorem encpdef_succeeds {e st su : Nat} {w : WaveOperand} {g f : Rat} {s t : State}
    (hx : exec (.encpdef e st w g f su) s = .next t) (herr : t.response.error = none) :
    ∃ writes ws, encodePdef s.profile e st w g f su = .ok (writes, ws) := by
  rw [exec_encpdef] at hx
  cases henc : encodePdef s.profile e st w g f su with
  | ok x => exact ⟨x.1, x.2, rfl⟩
  | error err =>
    simp only [henc] at hx
    cases hx
    cases herr

/-- Every encoded pulse definition has four registers to write. -/
theorem encodePdef_ne_nil {P : Profile} {e st su : Nat} {w : WaveOperand} {g f : Rat} {writes : List (Nat × Word)}
    {ws : List Warning} (h : encodePdef P e st w g f su = .ok (writes, ws)) : writes ≠ [] := by
  simp only [encodePdef] at h
  split at h
  · cases h
  split at h
  · cases h
  split at h <;> cases h
  exact List.cons_ne_nil _ _

theorem writePdef_ne_ok_of_unselected {s : State} (hc : s.chsel = none) {e st su : Nat} {w : WaveOperand} {g f : Rat}
    {writes : List (Nat × Word)} {ws : List Warning} (henc : encodePdef s.profile e st w g f su = .ok (writes, ws))
    (x : Ending) : writePdef w st g f su (some e) s ≠ .ok x := by
  intro h
  obtain ⟨n, t, hchoose, hend⟩ := writePdef_ok h
  cases hchoose
  rcases hend with ⟨err, herr, -⟩ | ⟨u, writes', ws', henc', hu, -⟩
  · exact nomatch henc.symm.trans herr
  · exact regWrites_ne_ok_of_unselected (.inl rfl) (s := s.warn ws') hc (encodePdef_ne_nil henc') u hu

/-- Without an entry the scan comes before the operands are looked at (R131). -/
theorem writePdef_none_selected {s : State} (hn : 0 < s.profile.nSlots) {st su : Nat} {w : WaveOperand} {g f : Rat}
    {e : Ending} (h : writePdef w st g f su none s = .ok e) : ∃ c, s.chsel = some (.one c) := by
  obtain ⟨n, t, hfind, -⟩ := writePdef_ok h
  exact findSlot_selected hn hfind

theorem clearPdefWrites_ne_nil {P : Profile} (h : 0 < P.nSlots) : clearPdefWrites P ≠ [] := by
  simp only [clearPdefWrites, ne_eq, List.map_eq_nil_iff, List.range_eq_nil]
  omega

theorem clearWaveWrites_ne_nil {P : Profile} (h : 2 ≤ P.waveRamCapacity) : clearWaveWrites P ≠ [] := by
  simp only [clearWaveWrites, ne_eq, List.map_eq_nil_iff, List.range_eq_nil]
  omega

/-! ### The refusals, cause by cause -/

/-- A device command of a channel-scoped space, with nothing selected (R115 a, b). -/
theorem command_refused_unselected {s : State} (hc : s.chsel = none) (a : Addr) (w : Word48) :
    ∀ i ∈ [Instr.commitPdef a, .commitWave a, .uwritePdef w, .uwriteWave w, .readPdef a, .readWave a],
      ∃ r, exec i s = .refused r := by
  have hone : ¬ ∃ c, s.chsel = some (.one c) := not_one_selected (.inl hc)
  simp only [List.forall_mem_cons]
  exact ⟨writeCommand_refused (exec_commitPdef a s) fun _ h => (devCommit_allowed h).selected (.inl rfl) hc,
    writeCommand_refused (exec_commitWave a s) fun _ h => (devCommit_allowed h).selected (.inr rfl) hc,
    writeCommand_refused (exec_uwritePdef w s) fun _ h => (devUwrite_allowed h).selected (.inl rfl) hc,
    writeCommand_refused (exec_uwriteWave w s) fun _ h => (devUwrite_allowed h).selected (.inr rfl) hc,
    readCommand_refused (exec_readPdef a s) fun _ _ h => hone (devReadPdef_needs h).2,
    readCommand_refused (exec_readWave a s) fun _ _ h => hone (devReadWave_needs h).2, List.forall_mem_nil _⟩

/-- A read of a channel-scoped space with all channels selected (R115 b). -/
theorem read_refused_all {s : State} (hc : s.chsel = some .all) (a : Addr) :
    ∀ i ∈ [Instr.readPdef a, .readWave a], ∃ r, exec i s = .refused r := by
  have hone : ¬ ∃ c, s.chsel = some (.one c) := not_one_selected (.inr hc)
  simp only [List.forall_mem_cons]
  exact ⟨readCommand_refused (exec_readPdef a s) fun _ _ h => hone (devReadPdef_needs h).2,
    readCommand_refused (exec_readWave a s) fun _ _ h => hone (devReadWave_needs h).2, List.forall_mem_nil _⟩

/-- A pulse-definition address past the last slot (R49). -/
theorem pdef_refused_outside {s : State} {a : Addr} (ha : 4 * s.profile.nSlots ≤ a.toNat) :
    ∀ i ∈ [Instr.commitPdef a, .readPdef a], ∃ r, exec i s = .refused r := by
  simp only [List.forall_mem_cons]
  exact ⟨writeCommand_refused (exec_commitPdef a s) fun _ h => Nat.not_lt.2 ha ((devCommit_allowed h).pdef rfl),
    readCommand_refused (exec_readPdef a s) fun _ _ h => Nat.not_lt.2 ha (devReadPdef_needs h).1,
    List.forall_mem_nil _⟩

/-- A waveform address that is no pair's (R42, R49). -/
theorem wave_refused_outside {s : State} {a : Addr}
    (ha : ¬ ∃ p, p < s.profile.waveRamCapacity / 2 ∧ a.toNat = waveRegAddr s.profile p) :
    ∀ i ∈ [Instr.commitWave a, .readWave a], ∃ r, exec i s = .refused r := by
  simp only [List.forall_mem_cons]
  exact ⟨writeCommand_refused (exec_commitWave a s) fun _ h => ha ((devCommit_allowed h).wave rfl),
    readCommand_refused (exec_readWave a s) fun _ _ h => ha (devReadWave_needs h).1, List.forall_mem_nil _⟩

/-- The write commands of `legacy`, under `unified` (R61). -/
theorem legacyCommand_refused {s : State} (h : s.profile.protoRev = .unified) (a : Addr) (v : Word) :
    ∀ i ∈ [Instr.stage v, .commitPdef a, .commitWave a, .commitDc a, .commitMisc a],
      exec i s = .refused (.illegalInRevision .unified) := by
  simp only [List.forall_mem_cons]
  exact ⟨writeCommand_refused_eq (exec_stage v s) (devStage_unified (s := s.start) h v),
    writeCommand_refused_eq (exec_commitPdef a s) (devCommit_unified (s := s.start) h _ a),
    writeCommand_refused_eq (exec_commitWave a s) (devCommit_unified (s := s.start) h _ a),
    writeCommand_refused_eq (exec_commitDc a s) (devCommit_unified (s := s.start) h _ a),
    writeCommand_refused_eq (exec_commitMisc a s) (devCommit_unified (s := s.start) h _ a), List.forall_mem_nil _⟩

/-- The write commands of `unified`, under `legacy` (R61). -/
theorem unifiedCommand_refused {s : State} (h : s.profile.protoRev = .legacy) (w : Word48) :
    ∀ i ∈ [Instr.uwritePdef w, .uwriteWave w, .uwriteDc w, .uwriteMisc w],
      exec i s = .refused (.illegalInRevision .legacy) := by
  simp only [List.forall_mem_cons]
  exact ⟨writeCommand_refused_eq (exec_uwritePdef w s) (devUwrite_legacy (s := s.start) h _ w),
    writeCommand_refused_eq (exec_uwriteWave w s) (devUwrite_legacy (s := s.start) h _ w),
    writeCommand_refused_eq (exec_uwriteDc w s) (devUwrite_legacy (s := s.start) h _ w),
    writeCommand_refused_eq (exec_uwriteMisc w s) (devUwrite_legacy (s := s.start) h _ w), List.forall_mem_nil _⟩

theorem chsel_refused {s : State} {c : Nat} (hc : s.profile.cMaxChannels ≤ c) (hall : c ≠ s.profile.chAll) :
    ∃ r, exec (.chsel c) s = .refused r := by
  refine writeCommand_refused (exec_chsel c s) fun t h => ?_
  obtain ⟨sel, hsel, -⟩ := devChsel_ok h
  exact nomatch (selectionOf_eq_none hc hall).symm.trans hsel

/-- A single register write of a channel-scoped space, with nothing selected (R130). -/
theorem regwrite_refused_unselected {s : State} (hc : s.chsel = none) (a v : Nat) :
    ∀ i ∈ [Instr.regwritePdef a v, .regwriteWave a v], ∃ r, exec i s = .refused r := by
  simp only [List.forall_mem_cons]
  exact ⟨writeCommand_refused (exec_regwritePdef a v s) fun _ h => (regWrite_allowed h).selected (.inl rfl) hc,
    writeCommand_refused (exec_regwriteWave a v s) fun _ h => (regWrite_allowed h).selected (.inr rfl) hc,
    List.forall_mem_nil _⟩

theorem findslot_refused {s : State} (hone : ¬ ∃ c, s.chsel = some (.one c)) (hn : 0 < s.profile.nSlots) :
    ∃ r, exec .findslot s = .refused r := by
  refine command_refused (exec_findslot s) fun e he => ?_
  split at he
  · cases he
  next hfind => exact hone (findSlot_selected (s := s.start) hn hfind)

/-! ### Reads leave the block alone (R47) -/

/-- An operation that the table of R39 lists as a writer of nothing leaves the whole block as it was. -/
theorem exec_sameBlock {i : Instr} {s t : State} (hspace : ∀ space, i.writesSpace space = false)
    (hstaged : i.writesStaged = false) (hchsel : i.writesChsel = false) (hx : exec i s = .next t) :
    SameBlock s t := by
  have hkeeps := exec_keepsUnlisted hx
  exact ⟨⟨hkeeps.pdef (hspace .pdef), hkeeps.wram (hspace .wave)⟩,
    ⟨hkeeps.dc (hspace .dc), hkeeps.misc (hspace .misc)⟩, hkeeps.staged hstaged, hkeeps.chsel hchsel⟩

end Sys2Proof.Machine

open Sys2Proof Sys2Proof.Machine

/-- Settles O15: each refusal is the contrapositive of what the command, or the first command of the composite
sequence, requires where it completes. -/
theorem refusedCommands : Obligations.RefusedCommands := by
  intro s
  refine ⟨?unselected, ?underAll, ?pdefAddress, ?uwritePdefAddress, ?waveAddress, ?uwriteWaveAddress, ?inUnified,
    ?inLegacy, ?noSuchChannel, ?compositesUnselected, ?compositesThatRead, ?regwritePdefAddress,
    ?regwriteWaveAddress⟩
  case unselected => exact command_refused_unselected
  case underAll => exact read_refused_all
  case pdefAddress => exact fun a => pdef_refused_outside
  case uwritePdefAddress =>
    exact fun w hw => writeCommand_refused (exec_uwritePdef w s) fun _ h =>
      Nat.not_lt.2 hw ((devUwrite_allowed h).pdef rfl)
  case waveAddress => exact fun a ha => wave_refused_outside fun ⟨p, hp, heq⟩ => ha p hp heq
  case uwriteWaveAddress =>
    intro w hw
    refine writeCommand_refused (exec_uwriteWave w s) fun _ h => ?_
    obtain ⟨p, hp, heq⟩ := (devUwrite_allowed h).wave rfl
    exact hw p hp heq
  case inUnified => exact legacyCommand_refused
  case inLegacy => exact unifiedCommand_refused
  case noSuchChannel => exact fun c => chsel_refused
  case compositesUnselected =>
    intro hc
    refine ⟨regwrite_refused_unselected hc, ?clearpdef, ?clearwave, ?writewave, ?writepdef⟩
    case clearpdef =>
      exact fun hn => writeCommand_refused (exec_clearpdef s)
        (regWrites_ne_ok_of_unselected (.inl rfl) hc (clearPdefWrites_ne_nil hn))
    case clearwave =>
      exact fun hcap => writeCommand_refused (exec_clearwave s)
        (regWrites_ne_ok_of_unselected (.inr rfl) hc (clearWaveWrites_ne_nil hcap))
    case writewave =>
      exact fun start samples hne heven hcap hfit => command_refused (exec_writewave start samples false s)
        (writeTable_ne_ok_of_unselected (s := s.start) hc hne heven hcap hfit)
    case writepdef =>
      rintro w st g f su e ⟨t, hx, herr⟩
      obtain ⟨writes, ws, henc⟩ := encpdef_succeeds hx herr
      exact command_refused (exec_writepdef w st g f su (some e) s)
        (writePdef_ne_ok_of_unselected (s := s.start) hc henc)
  case compositesThatRead =>
    intro hsel
    have hone : ¬ ∃ c, s.chsel = some (.one c) := not_one_selected hsel
    refine ⟨findslot_refused hone, ?readwave, ?writepdef⟩
    case readwave =>
      exact fun start length hpos hcap => command_refused (exec_readwave start length s) fun _ h =>
        hone (readTable_selected (s := s.start) hpos hcap h)
    case writepdef =>
      exact fun w st g f su hn => command_refused (exec_writepdef w st g f su none s) fun _ h =>
        hone (writePdef_none_selected (s := s.start) hn h)
  case regwritePdefAddress =>
    exact fun a v ha => writeCommand_refused (exec_regwritePdef a v s) fun _ h =>
      Nat.not_lt.2 ha ((regWrite_allowed h).pdef rfl)
  case regwriteWaveAddress =>
    intro a v ha
    refine writeCommand_refused (exec_regwriteWave a v s) fun _ h => ?_
    obtain ⟨p, hp, heq⟩ := (regWrite_allowed h).wave rfl
    exact ha p hp heq

/-- Settles O46: R39 lists none of the four as a writer. -/
theorem readsChangeNothing : Obligations.ReadsChangeNothing := by
  intro s t a
  simp only [List.forall_mem_cons]
  exact ⟨exec_sameBlock (fun _ => rfl) rfl rfl, exec_sameBlock (fun _ => rfl) rfl rfl,
    exec_sameBlock (fun _ => rfl) rfl rfl, exec_sameBlock (fun _ => rfl) rfl rfl, List.forall_mem_nil _⟩
end

section
/-! PROOFS. The encoding (R55 to R75): every request against the operation it decodes to, a byte stream against the
commands in it, and a data line against its values. -/

namespace Sys2Proof.Machine

open Sys2Proof

/-! ### The frame of a command (R60, R61, R68) -/

/-- What stands before a command's byte: the numeral of its operand, or nothing where it takes none (R66). -/
def operandDigits (c : Cmd) (n : Nat) : List Byte := if takesOperand c then dec n else []

/-- The frame of a command; one without an operand has the same frame for every `n`. -/
def commandFrame (P : Profile) (c : Cmd) (n : Nat) : Frame := operandDigits c n ++ [P.cmd.byteOf c]

theorem operandDigits_isDigit (c : Cmd) (n : Nat) : ∀ b ∈ operandDigits c n, isDigit b = true := by
  unfold operandDigits
  split
  · exact dec_isDigit n
  · exact List.forall_mem_nil _

/-- R66, the column of the operand: the four commands whose frame is the command byte alone. -/
theorem eq_of_takesOperand_false (c : Cmd) :
    takesOperand c = false → c = .version ∨ c = .regdump ∨ c = .reset ∨ c = .errq := by
  cases c <;> decide

theorem operandInRange_of_takesOperand_false {c : Cmd} (hc : takesOperand c = false) (P : Profile) (n : Nat) :
    operandInRange P c n = true := by
  obtain rfl | rfl | rfl | rfl := eq_of_takesOperand_false c hc <;> rfl

theorem instrOfCmd_of_takesOperand_false {c : Cmd} (hc : takesOperand c = false) (P : Profile) (m n : Nat) :
    instrOfCmd P c m = instrOfCmd P c n := by
  obtain rfl | rfl | rfl | rfl := eq_of_takesOperand_false c hc <;> rfl

/-- R75: the digits fit a command exactly where they are what its frame has for an operand in range. -/
theorem digitsFit_iff {P : Profile} {c : Cmd} {digits : List Byte} :
    digitsFit P c digits = true ↔
      digits = operandDigits c (numVal digits) ∧ operandInRange P c (numVal digits) = true := by
  cases hc : takesOperand c with
  | true => simp [digitsFit, operandDigits, canonical, hc]
  | false => simp [digitsFit, operandDigits, hc, operandInRange_of_takesOperand_false hc]

theorem digitsFit_operandDigits {P : Profile} {c : Cmd} {n : Nat} (hn : operandInRange P c n = true) :
    digitsFit P c (operandDigits c n) = true := by
  cases hc : takesOperand c with
  | true => simp [digitsFit, operandDigits, hc, hn]
  | false => simp [digitsFit, operandDigits, hc]

/-- The digits of a frame give its command the operand that they were made of. -/
theorem instrOfCmd_numVal_operandDigits (P : Profile) (c : Cmd) (n : Nat) :
    instrOfCmd P c (numVal (operandDigits c n)) = instrOfCmd P c n := by
  cases hc : takesOperand c with
  | true => simp [operandDigits, hc]
  | false => exact instrOfCmd_of_takesOperand_false hc P _ n

/-! ### The commands and their frames, both ways (R61, R66) -/

/-- R61, R75: a write's operand is below `2^16` in the legacy revision and below `2^48` in the unified one. -/
theorem writeOperandInRange_iff {P : Profile} {n : Nat} :
    writeOperandInRange P n = true ↔
      P.protoRev = .legacy ∧ n < 2 ^ 16 ∨ P.protoRev = .unified ∧ n < 2 ^ 48 := by
  unfold writeOperandInRange
  cases P.protoRev <;> simp

theorem writeOperandInRange_legacy {P : Profile} (hrev : P.protoRev = .legacy) (a : Addr) :
    writeOperandInRange P a.toNat = true := writeOperandInRange_iff.mpr (.inl ⟨hrev, a.isLt⟩)

theorem writeOperandInRange_unified {P : Profile} (hrev : P.protoRev = .unified) (w : Word48) :
    writeOperandInRange P w.toNat = true := writeOperandInRange_iff.mpr (.inr ⟨hrev, w.isLt⟩)

theorem frame1_toNat_ofNat {P : Profile} {c : Cmd} {width n : Nat} (hn : n < 2 ^ width) :
    frame1 P c (BitVec.ofNat width n).toNat = frame1 P c n := by
  rw [BitVec.toNat_ofNat, Nat.mod_eq_of_lt hn]

/-- A command with an operand in range is a well-formed operation, and its frame is the operation's request. -/
theorem encode_instrOfCmd {P : Profile} {c : Cmd} {n : Nat} (hn : operandInRange P c n = true) :
    encode P (instrOfCmd P c n) = .frame (commandFrame P c n) ∧ (instrOfCmd P c n).wf P = true := by
  cases c with
  | version | regdump | reset | errq => exact ⟨rfl, rfl⟩
  | chsel => exact ⟨rfl, hn⟩
  | chen | pdefRd | waveRd | miscRd =>
    have hlt := of_decide_eq_true hn
    exact ⟨congrArg Request.frame (frame1_toNat_ofNat hlt), rfl⟩
  | dataset =>
    obtain ⟨hrev, hlt⟩ := Bool.and_eq_true_iff.mp hn
    have hlt := of_decide_eq_true hlt
    exact ⟨congrArg Request.frame (frame1_toNat_ofNat hlt), hrev⟩
  | pdefWr | waveWr | dcWr | miscWr =>
    obtain ⟨hrev, hlt⟩ | ⟨hrev, hlt⟩ := writeOperandInRange_iff.mp hn
    all_goals
      simp only [instrOfCmd, hrev]
      exact ⟨congrArg Request.frame (frame1_toNat_ofNat hlt), decide_eq_true hrev⟩

/-- A well-formed operation whose request is a frame, and no illegal one, is a command with an operand in range. -/
theorem eq_instrOfCmd_of_encode_frame {P : Profile} {i : Instr} {f : Frame} (hwf : i.wf P = true)
    (hlegal : ∀ digits last, i ≠ .illegalFrame digits last) (hf : encode P i = .frame f) :
    ∃ c n, operandInRange P c n = true ∧ i = instrOfCmd P c n ∧ f = commandFrame P c n := by
  cases i <;> cases hf
  case illegalFrame digits last => exact absurd rfl (hlegal digits last)
  case version => exact ⟨.version, 0, rfl, rfl, rfl⟩
  case regdump => exact ⟨.regdump, 0, rfl, rfl, rfl⟩
  case reset => exact ⟨.reset, 0, rfl, rfl, rfl⟩
  case errq => exact ⟨.errq, 0, rfl, rfl, rfl⟩
  case chsel c => exact ⟨.chsel, c, hwf, rfl, rfl⟩
  case chen m => exact ⟨.chen, m.toNat, decide_eq_true m.isLt, by simp [instrOfCmd], rfl⟩
  case readPdef a => exact ⟨.pdefRd, a.toNat, decide_eq_true a.isLt, by simp [instrOfCmd], rfl⟩
  case readWave a => exact ⟨.waveRd, a.toNat, decide_eq_true a.isLt, by simp [instrOfCmd], rfl⟩
  case readMisc a => exact ⟨.miscRd, a.toNat, decide_eq_true a.isLt, by simp [instrOfCmd], rfl⟩
  case stage v =>
    exact ⟨.dataset, v.toNat, Bool.and_eq_true_iff.mpr ⟨hwf, decide_eq_true v.isLt⟩, by simp [instrOfCmd], rfl⟩
  case' commitPdef a | commitWave a | commitDc a | commitMisc a =>
    have hrev : P.protoRev = .legacy := of_decide_eq_true hwf
    have hn := writeOperandInRange_legacy hrev a
  case commitPdef => exact ⟨.pdefWr, a.toNat, hn, by simp [instrOfCmd, hrev], rfl⟩
  case commitWave => exact ⟨.waveWr, a.toNat, hn, by simp [instrOfCmd, hrev], rfl⟩
  case commitDc => exact ⟨.dcWr, a.toNat, hn, by simp [instrOfCmd, hrev], rfl⟩
  case commitMisc => exact ⟨.miscWr, a.toNat, hn, by simp [instrOfCmd, hrev], rfl⟩
  case' uwritePdef w | uwriteWave w | uwriteDc w | uwriteMisc w =>
    have hrev : P.protoRev = .unified := of_decide_eq_true hwf
    have hn := writeOperandInRange_unified hrev w
  case uwritePdef => exact ⟨.pdefWr, w.toNat, hn, by simp [instrOfCmd, hrev], rfl⟩
  case uwriteWave => exact ⟨.waveWr, w.toNat, hn, by simp [instrOfCmd, hrev], rfl⟩
  case uwriteDc => exact ⟨.dcWr, w.toNat, hn, by simp [instrOfCmd, hrev], rfl⟩
  case uwriteMisc => exact ⟨.miscWr, w.toNat, hn, by simp [instrOfCmd, hrev], rfl⟩

/-! ### Function requests (R70, R74) -/

/-- An unassigned `opsel` is the illegal operation, whatever its operands (R74). -/
theorem decodeFn_of_opselIllegal {opsel : Byte} (h : opselIllegal opsel = true) (operands : List Value) :
    decodeFn opsel operands = .ok (.illegalFn opsel) := by
  have hcode : opsel.toNat = 0 ∨ 0x0E ≤ opsel.toNat := of_decide_eq_true h
  unfold decodeFn
  split
  case h_14 => exact if_pos h
  all_goals omega

theorem decodeFn_of_encode_fn {P : Profile} {i : Instr} {opsel : Byte} {operands : List Value}
    (hwf : i.wf P = true) (hreq : encode P i = .fn opsel operands) : decodeFn opsel operands = .ok i := by
  cases i <;> cases hreq
  case illegalFn => exact decodeFn_of_opselIllegal hwf []
  all_goals rfl

/-! ### Composite calls (R73) -/

theorem composite_of_encode_composite {P : Profile} {i j : Instr} (hreq : encode P i = .composite j) :
    j = i ∧ i.isComposite = true := by
  cases i <;> cases hreq
  all_goals exact ⟨rfl, rfl⟩

/-! ### One frame (R75) -/

/-- A byte string that splits into one piece and no tail is that piece: digits and one byte that is none. -/
theorem splitFrames_eq_singleton {bytes digits : List Byte} {last : Byte}
    (h : splitFrames [] bytes = ([(digits, last)], [])) :
    bytes = digits ++ [last] ∧ (∀ b ∈ digits, isDigit b = true) ∧ isDigit last = false := by
  obtain ⟨hbytes, hpieces⟩ := splitFrames_inv [] bytes (List.forall_mem_nil _)
  rw [h] at hbytes hpieces
  exact ⟨by simpa using hbytes, hpieces _ List.mem_cons_self⟩

theorem decodeFrame_piece {P : Profile} {digits : List Byte} {last : Byte}
    (hdigits : ∀ b ∈ digits, isDigit b = true) (hlast : isDigit last = false) :
    decodeFrame P (digits ++ [last]) = .ok (decodePiece P digits last) := by
  simp only [decodeFrame, splitFrames_piece digits [] last hdigits hlast, splitFrames]

theorem decodeFrame_eq_ok {P : Profile} {bytes : Frame} {i : Instr} (h : decodeFrame P bytes = .ok i) :
    ∃ digits last, bytes = digits ++ [last] ∧ (∀ b ∈ digits, isDigit b = true) ∧ isDigit last = false
      ∧ decodePiece P digits last = i := by
  unfold decodeFrame at h
  split at h
  next digits last hsplit =>
    obtain ⟨hbytes, hdigits, hlast⟩ := splitFrames_eq_singleton hsplit
    exact ⟨digits, last, hbytes, hdigits, hlast, Except.ok.inj h⟩
  all_goals cases h

/-- Well-formedness of an illegal frame, taken apart (R75). -/
theorem illegalFrame_wf_iff {P : Profile} {digits : List Byte} {last : Byte} :
    (Instr.illegalFrame digits last).wf P = true ↔
      (∀ b ∈ digits, isDigit b = true) ∧ isDigit last = false ∧ frameLegal P digits last = false := by
  simp [Instr.wf, and_assoc]

/-- R75: a piece that is no legal frame is the illegal frame of its bytes. -/
theorem decodePiece_of_not_frameLegal {P : Profile} {digits : List Byte} {last : Byte}
    (h : frameLegal P digits last = false) : decodePiece P digits last = .illegalFrame digits last := by
  cases hc : commandOf P last with
  | none => simp only [decodePiece, hc]
  | some c =>
    have hfit : digitsFit P c digits = false := by simpa only [frameLegal, hc] using h
    simp [decodePiece, hc, hfit]

/-- R75: a legal piece is the frame of a command with an operand in range, and stands for that command. -/
theorem decodePiece_of_frameLegal {P : Profile} {digits : List Byte} {last : Byte}
    (h : frameLegal P digits last = true) :
    ∃ c n, operandInRange P c n = true ∧ digits ++ [last] = commandFrame P c n
      ∧ decodePiece P digits last = instrOfCmd P c n := by
  cases hc : commandOf P last with
  | none => simp [frameLegal, hc] at h
  | some c =>
    have hfit : digitsFit P c digits = true := by simpa only [frameLegal, hc] using h
    obtain ⟨hdigits, hn⟩ := digitsFit_iff.mp hfit
    refine ⟨c, numVal digits, hn, ?frame, by simp [decodePiece, hc, hfit]⟩
    rw [commandFrame, ← hdigits, byteOf_of_commandOf hc]

section
variable {P : Profile} {c : Cmd} {n : Nat}

theorem frameLegal_command (hP : P.WF) (hn : operandInRange P c n = true) :
    frameLegal P (operandDigits c n) (P.cmd.byteOf c) = true := by
  simp only [frameLegal, commandOf_byteOf hP, digitsFit_operandDigits hn]

theorem decodePiece_command (hP : P.WF) (hn : operandInRange P c n = true) :
    decodePiece P (operandDigits c n) (P.cmd.byteOf c) = instrOfCmd P c n := by
  simp only [decodePiece, commandOf_byteOf hP, digitsFit_operandDigits hn, if_true,
    instrOfCmd_numVal_operandDigits]

theorem decodeFrame_commandFrame (hP : P.WF) (hn : operandInRange P c n = true) :
    decodeFrame P (commandFrame P c n) = .ok (instrOfCmd P c n) := by
  rw [commandFrame, decodeFrame_piece (operandDigits_isDigit c n) (isDigit_byteOf hP c),
    decodePiece_command hP hn]

end

theorem decodeFrame_illegalFrame {P : Profile} {digits : List Byte} {last : Byte}
    (hwf : (Instr.illegalFrame digits last).wf P = true) :
    decodeFrame P (digits ++ [last]) = .ok (.illegalFrame digits last) := by
  obtain ⟨hdigits, hlast, hillegal⟩ := illegalFrame_wf_iff.mp hwf
  rw [decodeFrame_piece hdigits hlast, decodePiece_of_not_frameLegal hillegal]

/-- The frame of a well-formed operation, legal or not, decodes to it. -/
theorem decodeFrame_of_encode_frame {P : Profile} (hP : P.WF) {i : Instr} {f : Frame} (hwf : i.wf P = true)
    (hf : encode P i = .frame f) : decodeFrame P f = .ok i := by
  by_cases hi : ∃ digits last, i = .illegalFrame digits last
  · obtain ⟨digits, last, rfl⟩ := hi
    obtain rfl := Request.frame.inj hf
    exact decodeFrame_illegalFrame hwf
  · push Not at hi
    obtain ⟨c, n, hn, rfl, rfl⟩ := eq_instrOfCmd_of_encode_frame hwf hi hf
    exact decodeFrame_commandFrame hP hn

/-! ### A byte stream (R75) -/

/-- A legal piece at the head of a stream is the first command. -/
theorem decodeLink_legal {P : Profile} {digits : List Byte} {last : Byte}
    (hdigits : ∀ b ∈ digits, isDigit b = true) (hlast : isDigit last = false)
    (hlegal : frameLegal P digits last = true) (rest : List Byte) :
    decodeLink P (digits ++ [last] ++ rest)
      = (decodePiece P digits last :: (decodeLink P rest).1, (decodeLink P rest).2) := by
  simp [decodeLink, splitFrames_piece digits rest last hdigits hlast, decodePieces, hlegal]

/-- An illegal frame at the head of a stream is marked, and ends the list of commands. -/
theorem decodeLink_illegal {P : Profile} {digits : List Byte} {last : Byte}
    (hwf : (Instr.illegalFrame digits last).wf P = true) (rest : List Byte) :
    decodeLink P (digits ++ [last] ++ rest) = ([], .illegal digits last) := by
  obtain ⟨hdigits, hlast, hillegal⟩ := illegalFrame_wf_iff.mp hwf
  simp [decodeLink, splitFrames_piece digits rest last hdigits hlast, decodePieces, hillegal]

theorem decodeLink_commandFrame {P : Profile} {c : Cmd} {n : Nat} (hP : P.WF)
    (hn : operandInRange P c n = true) (rest : List Byte) :
    decodeLink P (commandFrame P c n ++ rest)
      = (instrOfCmd P c n :: (decodeLink P rest).1, (decodeLink P rest).2) := by
  rw [commandFrame, decodeLink_legal (operandDigits_isDigit c n) (isDigit_byteOf hP c)
    (frameLegal_command hP hn), decodePiece_command hP hn]

/-- `f` is the frame of the well-formed device command `i`. -/
def IsCommandFrame (P : Profile) (i : Instr) (f : Frame) : Prop :=
  i.wf P = true ∧ (∀ digits last, i ≠ .illegalFrame digits last) ∧ encode P i = .frame f

/-- The frames of commands at the head of a stream are the commands before those of the rest. -/
theorem decodeLink_frames_append {P : Profile} (hP : P.WF) {is : List Instr} {fs : List Frame}
    (h : List.Forall₂ (IsCommandFrame P) is fs) (rest : List Byte) :
    decodeLink P (fs.flatten ++ rest) = (is ++ (decodeLink P rest).1, (decodeLink P rest).2) := by
  induction h with
  | nil => rfl
  | cons hhead _ ih =>
    obtain ⟨hwf, hlegal, hf⟩ := hhead
    obtain ⟨c, n, hn, rfl, rfl⟩ := eq_instrOfCmd_of_encode_frame hwf hlegal hf
    rw [List.flatten_cons, List.append_assoc, decodeLink_commandFrame hP hn, ih, List.cons_append]

/-! ### Data lines (R62 to R64) -/

theorem carriageReturn_not_digit : isDigit carriageReturn = false := by decide

theorem ne_of_mem_dec {n : Nat} {b d : Byte} (hb : b ∈ dec n) (hd : isDigit d = false) : b ≠ d := by
  rintro rfl
  exact Bool.noConfusion (hd.symm.trans (dec_isDigit n b hb))

theorem dec_no_terminator (n : Nat) : ∀ b ∈ dec n, b ≠ newline ∧ b ≠ carriageReturn :=
  fun _ hb => ⟨ne_of_mem_dec hb newline_not_digit, ne_of_mem_dec hb carriageReturn_not_digit⟩

/-- The values of a data line stand before its terminator: no byte of them ends the line. -/
theorem commaSeparated_no_terminator (vs : List Nat) :
    ∀ b ∈ commaSeparated vs, b ≠ newline ∧ b ≠ carriageReturn := by
  induction vs using commaSeparated.induct with
  | case1 => exact List.forall_mem_nil _
  | case2 v => exact dec_no_terminator v
  | case3 v w vs ih =>
    intro b hb
    rw [commaSeparated, List.mem_append, List.mem_cons] at hb
    obtain hb | rfl | hb := hb
    · exact dec_no_terminator v b hb
    · decide
    · exact ih b hb

/-- R64: the bytes of a line before its terminator stay, and the terminator goes. -/
theorem stripTerminator_append {bs terminator : List Byte} (h : ∀ b ∈ bs, b ≠ newline ∧ b ≠ carriageReturn)
    (hterminator : stripTerminator terminator = []) : stripTerminator (bs ++ terminator) = bs := by
  induction bs with
  | nil => exact hterminator
  | cons b bs ih =>
    obtain ⟨⟨hnl, hcr⟩, htail⟩ := List.forall_mem_cons.mp h
    simp [stripTerminator, hnl, hcr, ih htail]

theorem splitCommas_append (pre : List Byte) {bs : List Byte} (h : ∀ b ∈ bs, b ≠ comma) (rest : List Byte) :
    splitCommas pre (bs ++ rest) = splitCommas (pre ++ bs) rest := by
  induction bs generalizing pre with
  | nil => simp
  | cons b bs ih =>
    obtain ⟨hb, htail⟩ := List.forall_mem_cons.mp h
    simp [splitCommas, hb, ih _ htail]

theorem splitCommas_dec_append (n : Nat) (rest : List Byte) :
    splitCommas [] (dec n ++ rest) = splitCommas (dec n) rest :=
  splitCommas_append [] (fun _ hb => ne_of_mem_dec hb comma_not_digit) rest

/-- R62: the pieces between the commas are the numerals. -/
theorem splitCommas_commaSeparated {vs : List Nat} (hvs : vs ≠ []) :
    splitCommas [] (commaSeparated vs) = vs.map dec := by
  induction vs using commaSeparated.induct with
  | case1 => exact absurd rfl hvs
  | case2 v => simpa [splitCommas, commaSeparated] using splitCommas_dec_append v []
  | case3 v w vs ih =>
    rw [commaSeparated, splitCommas_dec_append, splitCommas, if_pos rfl, ih (List.cons_ne_nil w vs)]
    rfl

/-- The numerals of values, with a terminator after them, parse to the values. -/
theorem parseDataLine_commaSeparated {vs : List Nat} (hvs : vs ≠ []) {terminator : List Byte}
    (hterminator : stripTerminator terminator = []) :
    parseDataLine (commaSeparated vs ++ terminator) = some vs := by
  have hpieces : splitCommas [] (stripTerminator (commaSeparated vs ++ terminator)) = vs.map dec := by
    rw [stripTerminator_append (commaSeparated_no_terminator vs) hterminator, splitCommas_commaSeparated hvs]
  have hcanonical : (vs.map dec).all (fun p => p.all isDigit && canonical p) = true := by
    simpa using fun v _ => dec_isDigit v
  have hvalues : (vs.map dec).map numVal = vs := by simp [Function.comp_def]
  simp only [parseDataLine, hpieces, hcanonical, hvalues, if_true]

end Sys2Proof.Machine

open Sys2Proof Sys2Proof.Machine

/-- Settles O8, by the form of the request. -/
theorem decodeInvertsEncode : Obligations.DecodeInvertsEncode := by
  intro P hP i hwf
  cases hreq : encode P i with
  | fn opsel operands => exact decodeFn_of_encode_fn hwf hreq
  | frame f => exact decodeFrame_of_encode_frame hP hwf hreq
  | composite j =>
    obtain ⟨rfl, hcomposite⟩ := composite_of_encode_composite hreq
    exact if_pos hcomposite

/-- Settles O10: the frames of the commands come off the stream one by one, and what is left is nothing, or begins with
the illegal frame. -/
theorem linkStreamDecodes : Obligations.LinkStreamDecodes := by
  intro P hP is fs h
  refine ⟨?commands, fun digits last rest hwf => ?illegal⟩
  case commands => simpa [decodeLink, splitFrames, decodePieces] using decodeLink_frames_append hP h []
  case illegal =>
    have hstream := decodeLink_frames_append hP h (digits ++ [last] ++ rest)
    rw [decodeLink_illegal hwf, List.append_nil] at hstream
    rw [← hstream]
    simp only [List.append_assoc]

/-- Settles O9: a frame is a piece of the stream, and the piece is legal or it is not. -/
theorem encodeInvertsFrameDecode : Obligations.EncodeInvertsFrameDecode := by
  intro P bytes i h
  obtain ⟨digits, last, rfl, hdigits, hlast, rfl⟩ := decodeFrame_eq_ok h
  cases hlegal : frameLegal P digits last with
  | true =>
    obtain ⟨c, n, hn, hframe, hpiece⟩ := decodePiece_of_frameLegal hlegal
    rw [hframe, hpiece]
    exact encode_instrOfCmd hn
  | false =>
    rw [decodePiece_of_not_frameLegal hlegal]
    exact ⟨rfl, illegalFrame_wf_iff.mpr ⟨hdigits, hlast, hlegal⟩⟩

/-- Settles O11: the table's words by evaluation, and the two frames as encodings of well-formed commands (O8). -/
theorem tableWordsDecode : Obligations.TableWordsDecode := by
  refine ⟨rfl, rfl, rfl, ?chsel, ?readMisc⟩
  case chsel => exact decodeInvertsEncode .p0 profile_p0_wf (.chsel 32) rfl
  case readMisc => exact decodeInvertsEncode .p0 profile_p0_wf (.readMisc 7#16) rfl

/-- Settles O12: no byte of the numerals ends the line, and the commas part them again. -/
theorem dataLinesParse : Obligations.DataLinesParse := by
  intro vs rest hvs
  refine ⟨?taken, parseDataLine_commaSeparated hvs (by decide), parseDataLine_commaSeparated hvs (by decide)⟩
  case taken =>
    have htaken := takeLine_append (commaSeparated vs) rest fun b hb => (commaSeparated_no_terminator vs b hb).1
    simpa [dataLine] using htaken
end

section
/-! PROOFS. The evaluator (R80 to R84): `EVALPOLY` is a sum of powers, and `PSHAPE` takes its argument by the region of
the pulse. -/

namespace Sys2Proof.Machine

open Sys2Proof

/-- An evaluator with a value answers it without flags. -/
theorem answers_rational {i : Instr} {s : State} {v : Except OpError Rat} {q : Rat}
    (hi : exec i s = runFunction (rationalResult v) s) (hv : v = .ok q) : Answers i s (.rational q) [] := by
  subst hv
  unfold Answers
  rw [hi]
  exact runFunction_ok s _ []

/-! ### The polynomial (R80, R81) -/

theorem polySum_zero (x : Rat) (cs : List Rat) : polySum 0 x cs = 0 := by
  simp [polySum]

/-- One more degree adds one more power; a coefficient past the end of the list counts as 0. -/
theorem polySum_succ (d : Nat) (x : Rat) (cs : List Rat) :
    polySum (d + 1) x cs = polySum d x cs + cs.getD d 0 * x ^ (d + 1) := by
  rcases lt_or_ge d cs.length with hd | hd
  · have hlast : cs.take (d + 1) = cs.take d ++ [cs.getD d 0] := by
      rw [List.getD_eq_getElem _ _ hd, List.take_concat_get' _ _ hd]
    simp [polySum, hlast, List.zipIdx_append, List.length_take_of_le hd.le]
  · simp [polySum, List.take_of_length_le, hd, hd.trans (Nat.le_succ d)]

/-- The fold over the list is the sum that R80 writes. -/
theorem polySum_eq_sum (d : Nat) (x : Rat) (cs : List Rat) :
    polySum d x cs = ∑ k ∈ Finset.Icc 1 d, cs.getD (k - 1) 0 * x ^ k := by
  induction d with
  | zero => simp [polySum_zero]
  | succ d ih => rw [polySum_succ, ih, Finset.sum_Icc_succ_top (Nat.le_add_left 1 d), Nat.add_sub_cancel]

theorem getD_zipWith_linear (a b : Rat) {cs ds : List Rat} (hlen : cs.length = ds.length) (i : Nat) :
    (List.zipWith (fun c c' => a * c + b * c') cs ds).getD i 0 = a * cs.getD i 0 + b * ds.getD i 0 := by
  rcases lt_or_ge i cs.length with hi | hi
  · have hi' : i < ds.length := hlen ▸ hi
    simp [hi, hi']
  · have hi' : ds.length ≤ i := hlen ▸ hi
    simp [hi, hi']

theorem polySum_linear (d : Nat) (x a b : Rat) {cs ds : List Rat} (hlen : cs.length = ds.length) :
    polySum d x (List.zipWith (fun c c' => a * c + b * c') cs ds)
      = a * polySum d x cs + b * polySum d x ds := by
  induction d with
  | zero => simp [polySum_zero]
  | succ d ih =>
    rw [polySum_succ, polySum_succ, polySum_succ, ih, getD_zipWith_linear a b hlen]
    ring

/-- A coefficient is a member of the list, or the 0 past its end. -/
theorem getD_mem_unitInterval {cs : List Rat} (hcs : ∀ c ∈ cs, 0 ≤ c ∧ c ≤ 1) (i : Nat) :
    0 ≤ cs.getD i 0 ∧ cs.getD i 0 ≤ 1 := by
  rcases lt_or_ge i cs.length with hi | hi
  · rw [List.getD_eq_getElem _ _ hi]
    exact hcs _ (List.getElem_mem hi)
  · rw [List.getD_eq_default _ _ hi]
    exact ⟨le_refl 0, zero_le_one⟩

/-- Each of the `d` terms lies in `[0, 1]` when the coefficients and the argument do. -/
theorem polySum_bounds {x : Rat} {cs : List Rat} (hx₀ : 0 ≤ x) (hx₁ : x ≤ 1)
    (hcs : ∀ c ∈ cs, 0 ≤ c ∧ c ≤ 1) (d : Nat) : 0 ≤ polySum d x cs ∧ polySum d x cs ≤ d := by
  induction d with
  | zero => simp [polySum_zero]
  | succ d ih =>
    obtain ⟨hc₀, hc₁⟩ := getD_mem_unitInterval hcs d
    have hpow₀ : 0 ≤ x ^ (d + 1) := pow_nonneg hx₀ _
    have hterm₀ : 0 ≤ cs.getD d 0 * x ^ (d + 1) := mul_nonneg hc₀ hpow₀
    have hterm₁ : cs.getD d 0 * x ^ (d + 1) ≤ 1 := mul_le_one₀ hc₁ hpow₀ (pow_le_one₀ hx₀ hx₁)
    rw [polySum_succ]
    push_cast
    constructor <;> linarith

theorem polyValue_linear (P : Profile) (d : Nat) (x a b : Rat) (cs ds : List Rat)
    (hlen : cs.length = ds.length) :
    polyValue P d x (List.zipWith (fun c c' => a * c + b * c') cs ds)
      = a * polyValue P d x cs + b * polyValue P d x ds := by
  simp only [polyValue, polySum_linear d x a b hlen]
  ring

theorem polyValue_bounds (P : Profile) (d : Nat) {x : Rat} {cs : List Rat} (hx₀ : 0 ≤ x) (hx₁ : x ≤ 1)
    (hcs : ∀ c ∈ cs, 0 ≤ c ∧ c ≤ 1) :
    0 ≤ polyValue P d x cs
      ∧ polyValue P d x cs ≤ (d : Rat) / ((d : Rat) + 1) * 2 ^ (P.addrBits - 1) := by
  obtain ⟨hsum₀, hsum₁⟩ := polySum_bounds hx₀ hx₁ hcs d
  unfold polyValue
  exact ⟨by positivity, by gcongr⟩

/-- The bound of a shape is below half of the sample range. -/
theorem degree_ratio_mul_lt (d n : Nat) : (d : Rat) / ((d : Rat) + 1) * 2 ^ n < 2 ^ n := by
  have hratio : (d : Rat) / ((d : Rat) + 1) < 1 := (div_lt_one (by positivity)).mpr (lt_add_one _)
  exact mul_lt_of_lt_one_left (by positivity) hratio

/-- The divisor 2 of degree 1 takes one power from the scale. -/
theorem polyValue_degree_one {P : Profile} (hP : 2 ≤ P.addrBits) (x c : Rat) (cs : List Rat) :
    polyValue P 1 x (c :: cs) = c * x * 2 ^ (P.addrBits - 2) := by
  have hscale : P.addrBits - 1 = P.addrBits - 2 + 1 := by omega
  have hsum : polySum 1 x (c :: cs) = c * x := by simp [polySum_succ, polySum_zero]
  rw [polyValue, hsum, hscale, pow_succ]
  push_cast
  ring

theorem evalPoly_of_le (P : Profile) {d : Nat} (x : Rat) {cs : List Rat} (hd : d ≤ cs.length) :
    evalPoly P d x cs = .ok (polyValue P d x cs) := if_neg hd.not_gt

theorem evalPoly_congr_addrBits {P Q : Profile} (hPQ : P.addrBits = Q.addrBits) (d : Nat) (x : Rat)
    (cs : List Rat) : evalPoly P d x cs = evalPoly Q d x cs := by
  simp only [evalPoly, polyValue, hPQ]

/-! ### The width of a pulse: the least number of ticks whose ramp reaches `riseTicks - 1` (R82) -/

/-- `Int.ceil` for the `Rat.ceil` that `pulseWidth` computes with. -/
theorem pulseWidth_eq_ceil (r : Int) (f : Rat) : pulseWidth r f = ⌈((r : Rat) - 1) / f⌉ :=
  Rat.ceil_eq_neg_floor_neg _

section Width

variable {r : Int} {f : Rat}

theorem pulseWidth_nonneg (hr : 0 < r) (hf : 0 < f) : 0 ≤ pulseWidth r f := by
  have hr₁ : (1 : Rat) ≤ r := by exact_mod_cast hr
  rw [pulseWidth_eq_ceil]
  exact Int.ceil_nonneg (div_nonneg (by linarith) hf.le)

theorem pulseWidth_pos (hr : 1 < r) (hf : 0 < f) : 1 ≤ pulseWidth r f := by
  have hr₁ : (1 : Rat) < r := by exact_mod_cast hr
  rw [pulseWidth_eq_ceil]
  exact Int.ceil_pos.mpr (div_pos (by linarith) hf)

theorem sub_one_le_pulseWidth_mul (r : Int) (hf : 0 < f) : (r : Rat) - 1 ≤ (pulseWidth r f : Rat) * f := by
  rw [pulseWidth_eq_ceil, ← div_le_iff₀ hf]
  exact Int.le_ceil _

theorem pulseWidth_sub_one_mul_lt (r : Int) (hf : 0 < f) :
    ((pulseWidth r f : Rat) - 1) * f < (r : Rat) - 1 := by
  rw [pulseWidth_eq_ceil, ← lt_div_iff₀ hf, sub_lt_iff_lt_add]
  exact Int.ceil_lt_add_one _

end Width

/-! ### The argument of a pulse, an equation per region (R82) -/

section Regions

variable {r h rel : Int} {f : Rat}

theorem pulseArg_rise (h₀ : 0 ≤ rel) (h₁ : rel < pulseWidth r f) : pulseArg rel r h f = (rel : Rat) * f := by
  simp only [pulseArg, pulseRegion, if_pos (And.intro h₀ h₁)]

theorem pulseArg_hold (h₀ : pulseWidth r f ≤ rel) (h₁ : rel < pulseWidth r f + h) :
    pulseArg rel r h f = (r : Rat) - 1 := by
  have hrise : ¬ (0 ≤ rel ∧ rel < pulseWidth r f) := by omega
  simp only [pulseArg, pulseRegion, if_neg hrise, if_pos (And.intro h₀ h₁)]

theorem pulseArg_fall (hh : 0 ≤ h) (h₀ : pulseWidth r f + h ≤ rel) (h₁ : rel < 2 * pulseWidth r f + h - 1) :
    pulseArg rel r h f = (2 * (pulseWidth r f : Rat) + (h : Rat) - (rel : Rat) - 1) * f := by
  have hrise : ¬ (0 ≤ rel ∧ rel < pulseWidth r f) := by omega
  have hhold : ¬ (pulseWidth r f ≤ rel ∧ rel < pulseWidth r f + h) := by omega
  simp only [pulseArg, pulseRegion, if_neg hrise, if_neg hhold, if_pos (And.intro h₀ h₁)]
  push_cast
  rfl

theorem pulseArg_before (hr : 0 < r) (hf : 0 < f) (hh : 0 ≤ h) (hrel : rel < 0) : pulseArg rel r h f = 0 := by
  have hpw := pulseWidth_nonneg hr hf
  have hrise : ¬ (0 ≤ rel ∧ rel < pulseWidth r f) := by omega
  have hhold : ¬ (pulseWidth r f ≤ rel ∧ rel < pulseWidth r f + h) := by omega
  have hfall : ¬ (pulseWidth r f + h ≤ rel ∧ rel < 2 * pulseWidth r f + h - 1) := by omega
  simp only [pulseArg, pulseRegion, if_neg hrise, if_neg hhold, if_neg hfall]

theorem pulseArg_after (hh : 0 ≤ h) (h₀ : pulseWidth r f + h ≤ rel) (h₁ : 2 * pulseWidth r f + h - 1 ≤ rel) :
    pulseArg rel r h f = 0 := by
  have hrise : ¬ (0 ≤ rel ∧ rel < pulseWidth r f) := by omega
  have hhold : ¬ (pulseWidth r f ≤ rel ∧ rel < pulseWidth r f + h) := by omega
  have hfall : ¬ (pulseWidth r f + h ≤ rel ∧ rel < 2 * pulseWidth r f + h - 1) := by omega
  simp only [pulseArg, pulseRegion, if_neg hrise, if_neg hhold, if_neg hfall]

/-! ### What the regions say together (R83, R84) -/

/-- The last tick of the mirrored ramp, `j = pw - 1`, is the first one after the pulse: its argument is 0 there too, so
that the equation holds with no fall at all (`pw = 1`). -/
theorem pulseArg_fall_offset (hh : 0 ≤ h) {j : Int} (hj₀ : 0 ≤ j) (hj₁ : j ≤ pulseWidth r f - 1) :
    pulseArg (pulseWidth r f + h + j) r h f = ((pulseWidth r f : Rat) - 1 - (j : Rat)) * f := by
  rcases eq_or_lt_of_le hj₁ with hlast | hbefore
  · rw [pulseArg_after hh (by omega) (by omega), hlast]
    push_cast
    ring
  · rw [pulseArg_fall hh (by omega) (by omega)]
    push_cast
    ring

theorem pulseArg_rise_offset {j : Int} (hj₀ : 0 ≤ j) (hj₁ : j ≤ pulseWidth r f - 1) :
    pulseArg (pulseWidth r f - 1 - j) r h f = ((pulseWidth r f : Rat) - 1 - (j : Rat)) * f := by
  rw [pulseArg_rise (by omega) (by omega)]
  push_cast
  rfl

/-- Outside `[1, 2·pw + h - 2]` lie the ticks before and after the pulse, the tick 0 where the ramp begins at 0, and, for
`riseTicks = 1`, a hold at 0. -/
theorem rel_mem_of_pulseArg_ne_zero (hr : 0 < r) (hf : 0 < f) (hh : 0 ≤ h) (hx : pulseArg rel r h f ≠ 0) :
    1 ≤ rel ∧ rel ≤ 2 * pulseWidth r f + h - 2 := by
  have hbefore : 0 ≤ rel := not_lt.mp fun hrel => hx (pulseArg_before hr hf hh hrel)
  rcases lt_or_ge rel (pulseWidth r f) with hrise | hrise
  · have hzero : rel ≠ 0 := by
      rintro rfl
      exact hx (by simp [pulseArg_rise hbefore hrise])
    omega
  rcases lt_or_ge rel (pulseWidth r f + h) with hhold | hhold
  · have hone : r ≠ 1 := by
      rintro rfl
      exact hx (by simp [pulseArg_hold hrise hhold])
    have hpw := pulseWidth_pos (by omega : 1 < r) hf
    omega
  · have hfall : rel < 2 * pulseWidth r f + h - 1 := not_le.mp fun hrel => hx (pulseArg_after hh hhold hrel)
    have hpw := pulseWidth_nonneg hr hf
    omega

theorem pulseArg_succ_sub_of_rise (h₀ : 0 ≤ rel) (h₁ : rel + 1 < pulseWidth r f) :
    pulseArg (rel + 1) r h f - pulseArg rel r h f = f := by
  rw [pulseArg_rise (by omega) h₁, pulseArg_rise h₀ (by omega)]
  push_cast
  ring

theorem pulseArg_sub_succ_of_fall (hh : 0 ≤ h) (h₀ : pulseWidth r f + h ≤ rel)
    (h₁ : rel + 1 < 2 * pulseWidth r f + h - 1) :
    pulseArg rel r h f - pulseArg (rel + 1) r h f = f := by
  rw [pulseArg_fall hh h₀ (by omega), pulseArg_fall hh (by omega) h₁]
  push_cast
  ring

/-- `PSHAPE` on its domain. -/
theorem pulseShape_of_domain (hr : 0 < r) (hf : 0 < f) (hh : 0 ≤ h) (P : Profile) (now start : Int) (gain : Rat)
    (cs : List Rat) :
    pulseShape P now start r f h gain cs
      = .ok (polyValue P cs.length (pulseArg (now - start) r h f / (r : Rat)) cs * gain) := by
  simp only [pulseShape, if_neg hr.not_ge, if_neg hf.not_ge, if_neg hh.not_gt]

end Regions

end Sys2Proof.Machine

open Sys2Proof Sys2Proof.Machine

/-- Settles O16: the degree is in the list, and the fold over the list is the sum. -/
theorem evalpolySumsPowers : Obligations.EvalpolySumsPowers := by
  intro s d x cs hd
  rw [← polySum_eq_sum]
  exact answers_rational (exec_evalpoly d x cs s) (evalPoly_of_le s.profile x hd)

/-- Settles O17: the laws of the sum, scaled. -/
theorem evalpolyLaws : Obligations.EvalpolyLaws := by
  refine ⟨polyValue_linear, ?bounds, ?linearCase, ?addrBitsOnly⟩
  case bounds =>
    intro P d x cs _ hx₀ hx₁ hcs
    obtain ⟨hvalue₀, hvalue₁⟩ := polyValue_bounds P d hx₀ hx₁ hcs
    exact ⟨hvalue₀, hvalue₁, hvalue₁.trans_lt (degree_ratio_mul_lt d _)⟩
  case linearCase =>
    intro P x c cs hP
    exact polyValue_degree_one (le_trans (by decide) hP.addrBits_ge) x c cs
  case addrBitsOnly => exact fun P Q d x cs hPQ => evalPoly_congr_addrBits hPQ d x cs

/-- Settles O18: the argument of the model, by the region of `rel`. -/
theorem pshapeByRegion : Obligations.PshapeByRegion := by
  intro s now start r f h gain cs hr hf hh rel pw hrel hpw
  obtain rfl : pw = pulseWidth r f := hpw.trans (pulseWidth_eq_ceil r f).symm
  refine ⟨pulseArg rel r h f, ?answers, pulseArg_rise, pulseArg_hold, pulseArg_fall hh, ?outside⟩
  case answers =>
    rw [hrel]
    exact answers_rational (exec_pshape now start r f h gain cs s) (pulseShape_of_domain hr hf hh ..)
  case outside =>
    rintro (hbefore | ⟨hhold, hafter⟩)
    · exact pulseArg_before hr hf hh hbefore
    · exact pulseArg_after hh hhold hafter

/-- Settles O19: the bounds of the regions, the argument in each, and the gain as the last factor. -/
theorem pulseRegionFacts : Obligations.PulseRegionFacts := by
  rintro r h f pw hr hf hh rfl
  refine ⟨fun rel => by omega, fun rel => rel_mem_of_pulseArg_ne_zero hr hf hh, ?rise, ?mirror, ?gain⟩
  case rise =>
    intro rel h₀ h₁
    have hlast : (rel : Rat) ≤ (pulseWidth r f : Rat) - 1 := by exact_mod_cast Int.le_sub_one_of_lt h₁
    exact ⟨pulseArg_rise h₀ h₁, mul_le_mul_of_nonneg_right hlast hf.le, pulseWidth_sub_one_mul_lt r hf⟩
  case mirror =>
    intro j hj₀ hj₁
    have hfall := pulseArg_fall_offset (r := r) (f := f) hh hj₀ (by omega)
    exact ⟨hfall, hfall.trans (pulseArg_rise_offset hj₀ (by omega)).symm⟩
  case gain =>
    intro P now start gain cs v v₁ hv hv₁
    rw [pulseShape_of_domain hr hf hh, Except.ok.injEq] at hv hv₁
    rw [← hv, ← hv₁, mul_one, mul_comm]

/-- Settles O20: `pw` is the ceiling, so that the ramp's next tick would reach `riseTicks - 1`; the fall repeats the ramp
backwards from its last tick. -/
theorem pulseBoundaryJump : Obligations.PulseBoundaryJump := by
  rintro r h f pw - hf hh rfl hpw
  have hlastRise : pulseArg (pulseWidth r f - 1) r h f = ((pulseWidth r f : Rat) - 1) * f := by
    simpa using pulseArg_rise_offset (h := h) le_rfl (Int.sub_nonneg_of_le hpw)
  have hfirstFall : pulseArg (pulseWidth r f + h) r h f = ((pulseWidth r f : Rat) - 1) * f := by
    simpa using pulseArg_fall_offset hh le_rfl (Int.sub_nonneg_of_le hpw)
  refine ⟨hlastRise, sub_pos.mpr (pulseWidth_sub_one_mul_lt r hf), ?step, ?hold, ?noHold,
    fun _ => pulseArg_succ_sub_of_rise, fun _ => pulseArg_sub_succ_of_fall hh⟩
  case step =>
    have hreach := sub_one_le_pulseWidth_mul r hf
    linarith
  case hold =>
    intro hhold
    exact ⟨pulseArg_hold le_rfl (by omega), pulseArg_hold (by omega) (by omega), hfirstFall⟩
  case noHold =>
    rintro rfl
    rw [hlastRise, ← hfirstFall, add_zero]
end

section
/-! PROOFS. Quantization (R90 to R95): the samples of `SYNTH`, the code of `V2DAC`, and the pair words of `PACKPAIR`,
`UNPACKPAIR` and `PACKTABLE`. -/

namespace Sys2Proof.Machine

open Sys2Proof

/-! ### Range checks and `STRICT` (R143) -/

/-- The flag that a failed check is without `STRICT` (R143). -/
def Violation.flag (v : Violation) : Warning := .outOfRange v.field v.value v.bound

theorem strictness_of_lax_or_nil {strict : Bool} {vs : List Violation} (h : strict = false ∨ vs = []) :
    strictness strict vs = .ok (vs.map Violation.flag) := by
  rcases h with rfl | rfl
  · rfl
  · cases strict <;> rfl

/-- Checks made one list after another are the checks of the whole list: the first error stays the first. -/
theorem strictness_append (strict : Bool) (vs us : List Violation) :
    strictness strict (vs ++ us)
      = (strictness strict vs).bind fun ws => (strictness strict us).map (ws ++ ·) := by
  cases strict with
  | false =>
    simp only [strictness_of_lax_or_nil (.inl rfl), List.map_append]
    rfl
  | true =>
    cases vs with
    | nil => cases us <;> rfl
    | cons v vs => rfl

section Checked

variable {i : Instr} {s : State} {r : Result} {vs : List Violation}

/-- A function operation behind range checks that the profile lets pass answers its result, with a flag for each failed
check. -/
theorem answers_of_checks
    (hi : exec i s = runFunction ((strictness s.profile.strict vs).map (Prod.mk r)) s)
    (h : s.profile.strict = false ∨ vs = []) : Answers i s r (vs.map Violation.flag) := by
  rw [strictness_of_lax_or_nil h] at hi
  unfold Answers
  rw [hi]
  exact runFunction_ok s r _

/-- Under `STRICT` the first failed check is the error. -/
theorem fails_of_checks
    (hi : exec i s = runFunction ((strictness s.profile.strict vs).map (Prod.mk r)) s)
    (hstrict : s.profile.strict = true) {v : Violation} {rest : List Violation} (hvs : vs = v :: rest) :
    Fails i s (.outOfRange v.field v.value v.bound) := by
  subst hvs
  rw [hstrict] at hi
  unfold Fails
  rw [hi]
  exact runFunction_error s _

end Checked

/-! ### The checks of a list of samples (R93, R95) -/

theorem sampleCheck_of_le {P : Profile} {v : Nat} (h : v ≤ P.smax) : sampleCheck P v = [] := by
  simp only [sampleCheck, checkMax, check, h, decide_true, if_true]

theorem sampleCheck_of_lt {P : Profile} {v : Nat} (h : P.smax < v) :
    sampleCheck P v = [⟨.sample, v, P.smax⟩] := by
  simp only [sampleCheck, checkMax, check, h.not_ge, decide_false, Bool.false_eq_true, if_false]

theorem pairChecks_eq_flatMap (P : Profile) (a b : Nat) : pairChecks P a b = [a, b].flatMap (sampleCheck P) := by
  simp [pairChecks]

theorem flatMap_sampleCheck_of_le {P : Profile} {l : List Nat} (h : ∀ v ∈ l, v ≤ P.smax) :
    l.flatMap (sampleCheck P) = [] :=
  List.flatMap_eq_nil_iff.mpr fun v hv => sampleCheck_of_le (h v hv)

/-- The first sample above `SMAX` is the first failed check. -/
theorem flatMap_sampleCheck_of_first {P : Profile} {before after : List Nat} {v : Nat}
    (hbefore : ∀ u ∈ before, u ≤ P.smax) (hv : P.smax < v) :
    (before ++ v :: after).flatMap (sampleCheck P)
      = ⟨.sample, v, P.smax⟩ :: after.flatMap (sampleCheck P) := by
  rw [List.flatMap_append, flatMap_sampleCheck_of_le hbefore, List.flatMap_cons, sampleCheck_of_lt hv]
  rfl

theorem mem_flags_sampleCheck {P : Profile} {l : List Nat} {x : Warning} :
    x ∈ (l.flatMap (sampleCheck P)).map Violation.flag
      ↔ ∃ v ∈ l, P.smax < v ∧ x = .outOfRange .sample v P.smax := by
  have hone (v : Nat) : x ∈ (sampleCheck P v).map Violation.flag
      ↔ P.smax < v ∧ x = .outOfRange .sample v P.smax := by
    rcases le_or_gt v P.smax with hv | hv
    · simp [sampleCheck_of_le hv, hv.not_gt]
    · simp [sampleCheck_of_lt hv, hv, Violation.flag]
  simp only [List.map_flatMap, List.mem_flatMap, hone]

/-! ### The padding and the pairs of a table (R44, R95) -/

theorem length_padEven (l : List Nat) : (padEven l).length = l.length + l.length % 2 := by
  simp only [padEven]
  split
  · simp [*]
  · omega

theorem length_padEven_even (l : List Nat) : (padEven l).length % 2 = 0 := by
  rw [length_padEven]
  omega

/-- The padding is the 0 that a read past the end gives. -/
theorem getD_padEven (l : List Nat) (i : Nat) : (padEven l).getD i 0 = l.getD i 0 := by
  simp only [padEven]
  split
  · rcases lt_or_ge i l.length with hi | hi
    · exact List.getD_append _ _ _ _ hi
    · rw [List.getD_append_right _ _ _ _ hi, List.getD_eq_default _ _ hi]
      cases i - l.length <;> rfl
  · rfl

theorem flatMap_sampleCheck_padEven (P : Profile) (l : List Nat) :
    (padEven l).flatMap (sampleCheck P) = l.flatMap (sampleCheck P) := by
  simp only [padEven]
  split
  · rw [List.flatMap_append, List.flatMap_singleton, sampleCheck_of_le (Nat.zero_le _), List.append_nil]
  · rfl

theorem length_pairsOf (l : List Nat) : (pairsOf l).length = l.length / 2 := by
  induction l using pairsOf.induct with
  | case1 a b rest ih =>
    simp only [pairsOf, List.length_cons, ih]
    omega
  | case2 | case3 => simp [pairsOf]

theorem getElem?_pairsOf {l : List Nat} {k : Nat} (hk : k < (pairsOf l).length) :
    (pairsOf l)[k]? = some (l.getD (2 * k) 0, l.getD (2 * k + 1) 0) := by
  induction l using pairsOf.induct generalizing k with
  | case1 a b rest ih =>
    cases k with
    | zero => rfl
    | succ k => exact ih (Nat.lt_of_succ_lt_succ hk)
  | case2 | case3 => simp [pairsOf] at hk

/-- The pairs of a table of even length, taken apart, are the table. -/
theorem flatMap_pairsOf {l : List Nat} (h : l.length % 2 = 0) :
    (pairsOf l).flatMap (fun ab => [ab.1, ab.2]) = l := by
  induction l using pairsOf.induct with
  | case1 a b rest ih =>
    have hrest : rest.length % 2 = 0 := by
      simp only [List.length_cons] at h
      omega
    rw [pairsOf, List.flatMap_cons, ih hrest]
    rfl
  | case2 a => simp at h
  | case3 => rfl

/-- The checks of the pairs are those of the samples in list order. -/
theorem flatMap_pairChecks_padEven (P : Profile) (l : List Nat) :
    (pairsOf (padEven l)).flatMap (fun ab => pairChecks P ab.1 ab.2) = l.flatMap (sampleCheck P) := by
  have hpairs := flatMap_pairsOf (length_padEven_even l)
  rw [← flatMap_sampleCheck_padEven, ← congrArg (List.flatMap (sampleCheck P)) hpairs, List.flatMap_assoc]
  simp only [pairChecks_eq_flatMap]

/-! ### The words of a table: the checks of its samples, then one word for each pair (R93, R95) -/

/-- The words of the padded table, pair by pair. -/
def pairWords (P : Profile) (samples : List Nat) : List Word :=
  (pairsOf (padEven samples)).map fun ab => pairWord P ab.1 ab.2

theorem packPair_eq (P : Profile) (a b : Nat) :
    packPair P a b = (strictness P.strict (pairChecks P a b)).map (Prod.mk (pairWord P a b)) := by
  simp only [packPair]
  cases strictness P.strict (pairChecks P a b) <;> rfl

theorem packPairs_eq (P : Profile) (pairs : List (Nat × Nat)) :
    packPairs P pairs
      = (strictness P.strict (pairs.flatMap fun ab => pairChecks P ab.1 ab.2)).map
          (Prod.mk (pairs.map fun ab => pairWord P ab.1 ab.2)) := by
  induction pairs with
  | nil =>
    rw [List.flatMap_nil, strictness_of_lax_or_nil (.inr rfl)]
    rfl
  | cons ab pairs ih =>
    rw [packPairs, packPair_eq, ih, List.flatMap_cons, strictness_append]
    rcases strictness P.strict (pairChecks P ab.1 ab.2) with e | ws
    · rfl
    · cases strictness P.strict (pairs.flatMap fun ab => pairChecks P ab.1 ab.2) <;> rfl

theorem packTable_eq (P : Profile) (samples : List Nat) :
    packTable P samples
      = (strictness P.strict (samples.flatMap (sampleCheck P))).map (Prod.mk (pairWords P samples)) := by
  rw [packTable, packPairs_eq, flatMap_pairChecks_padEven]
  rfl

theorem exec_packpair_checked (a b : Nat) (s : State) :
    exec (.packpair a b) s
      = runFunction ((strictness s.profile.strict ([a, b].flatMap (sampleCheck s.profile))).map
          (Prod.mk (.word (pairWord s.profile a b)))) s := by
  rw [exec_packpair, packPair_eq, pairChecks_eq_flatMap]
  cases strictness s.profile.strict ([a, b].flatMap (sampleCheck s.profile)) <;> rfl

theorem exec_packtable_checked (samples : List Nat) (s : State) :
    exec (.packtable samples) s
      = runFunction ((strictness s.profile.strict (samples.flatMap (sampleCheck s.profile))).map
          (Prod.mk (.words (pairWords s.profile samples)))) s := by
  rw [exec_packtable, packTable_eq]
  cases strictness s.profile.strict (samples.flatMap (sampleCheck s.profile)) <;> rfl

theorem length_pairWords (P : Profile) (samples : List Nat) :
    (pairWords P samples).length = (samples.length + 1) / 2 := by
  rw [pairWords, List.length_map, length_pairsOf, length_padEven]
  omega

theorem getElem?_pairWords (P : Profile) {samples : List Nat} {k : Nat} (hk : k < (pairWords P samples).length) :
    (pairWords P samples)[k]? = some (pairWord P (samples.getD (2 * k) 0) (samples.getD (2 * k + 1) 0)) := by
  rw [pairWords, List.length_map] at hk
  rw [pairWords, List.getElem?_map, getElem?_pairsOf hk, getD_padEven, getD_padEven]
  rfl

/-! ### A pair word and its fields (R93, R94) -/

theorem pairWord_toNat {P : Profile} {first second lo hi : Nat}
    (hlow : P.pairOrder = .evenLow → lo = first ∧ hi = second)
    (hhigh : P.pairOrder = .evenHigh → lo = second ∧ hi = first) :
    (pairWord P first second).toNat = ((hi <<< P.addrBits) ||| lo) % 2 ^ 32 := by
  rw [pairWord]
  cases horder : P.pairOrder with
  | evenLow =>
    obtain ⟨rfl, rfl⟩ := hlow horder
    exact BitVec.toNat_ofNat ..
  | evenHigh =>
    obtain ⟨rfl, rfl⟩ := hhigh horder
    exact BitVec.toNat_ofNat ..

theorem field_low (w : Word) (n : Nat) : field w 0 n = w.toNat % 2 ^ n := rfl

theorem field_high (w : Word) (n : Nat) : field w n n = w.toNat / 2 ^ n % 2 ^ n := by
  rw [field, Nat.shiftRight_eq_div_pow]

theorem unpairWord_evenLow {P : Profile} (h : P.pairOrder = .evenLow) (w : Word) :
    unpairWord P w = (field w 0 P.addrBits, field w P.addrBits P.addrBits) := by
  simp only [unpairWord, h]

theorem unpairWord_evenHigh {P : Profile} (h : P.pairOrder = .evenHigh) (w : Word) :
    unpairWord P w = (field w P.addrBits P.addrBits, field w 0 P.addrBits) := by
  simp only [unpairWord, h]

theorem lt_two_pow_of_le_smax {P : Profile} {v : Nat} (h : v ≤ P.smax) : v < 2 ^ P.addrBits :=
  Nat.lt_of_le_pred (Nat.two_pow_pos _) h

/-- Two fields of at most 16 bits share no bit and fit in the word, so that the mask of R93 cuts nothing. -/
theorem toNat_ofNat_fields {n lo hi : Nat} (hn : n ≤ 16) (hlo : lo < 2 ^ n) (hhi : hi < 2 ^ n) :
    (BitVec.ofNat 32 ((hi <<< n) ||| lo)).toNat = hi * 2 ^ n + lo := by
  have hfits : hi * 2 ^ n + lo < 2 ^ 32 :=
    calc hi * 2 ^ n + lo < (hi + 1) * 2 ^ n := by rw [Nat.succ_mul]; omega
      _ ≤ 2 ^ n * 2 ^ n := Nat.mul_le_mul_right _ hhi
      _ = 2 ^ (n + n) := (pow_add 2 n n).symm
      _ ≤ 2 ^ 32 := Nat.pow_le_pow_right (by decide) (by omega)
  rw [← Nat.shiftLeft_add_eq_or_of_lt hlo, Nat.shiftLeft_eq, BitVec.toNat_ofNat, Nat.mod_eq_of_lt hfits]

theorem field_low_of_fields {n lo hi : Nat} (hn : n ≤ 16) (hlo : lo < 2 ^ n) (hhi : hi < 2 ^ n) :
    field (BitVec.ofNat 32 ((hi <<< n) ||| lo)) 0 n = lo := by
  rw [field_low, toNat_ofNat_fields hn hlo hhi, Nat.mul_add_mod_of_lt hlo]

theorem field_high_of_fields {n lo hi : Nat} (hn : n ≤ 16) (hlo : lo < 2 ^ n) (hhi : hi < 2 ^ n) :
    field (BitVec.ofNat 32 ((hi <<< n) ||| lo)) n n = hi := by
  rw [field_high, toNat_ofNat_fields hn hlo hhi, Nat.mul_comm, Nat.mul_add_div (Nat.two_pow_pos n),
    Nat.div_eq_of_lt hlo, Nat.add_zero, Nat.mod_eq_of_lt hhi]

theorem unpairWord_pairWord {P : Profile} (hP : P.WF) {a b : Nat} (ha : a ≤ P.smax) (hb : b ≤ P.smax) :
    unpairWord P (pairWord P a b) = (a, b) := by
  replace ha := lt_two_pow_of_le_smax ha
  replace hb := lt_two_pow_of_le_smax hb
  have hbits := hP.addrBits_le
  cases horder : P.pairOrder with
  | evenLow =>
    simp only [unpairWord_evenLow horder, pairWord, horder, field_low_of_fields hbits ha hb,
      field_high_of_fields hbits ha hb]
  | evenHigh =>
    simp only [unpairWord_evenHigh horder, pairWord, horder, field_low_of_fields hbits hb ha,
      field_high_of_fields hbits hb ha]

theorem unpair_pairWords {P : Profile} (hP : P.WF) {samples : List Nat} (hfit : ∀ v ∈ samples, v ≤ P.smax) :
    (pairWords P samples).flatMap (fun w => [(unpairWord P w).1, (unpairWord P w).2]) = padEven samples := by
  have hpadded : ∀ v ∈ padEven samples, v ≤ P.smax := fun v hv =>
    (mem_padEven hv).elim (hfit v) (fun h0 => h0 ▸ Nat.zero_le _)
  rw [pairWords, List.flatMap_map]
  refine Eq.trans (List.flatMap_congr fun ab hab => ?_) (flatMap_pairsOf (length_padEven_even samples))
  obtain ⟨hfirst, hsecond⟩ := mem_pairsOf hab
  rw [unpairWord_pairWord hP (hpadded _ hfirst) (hpadded _ hsecond)]

/-! ### The samples of `SYNTH` (R90, R91) -/

theorem length_tableSamples (P : Profile) (L : Nat) (cs : List Rat) : (tableSamples P L cs).length = L := by
  simp [tableSamples]

theorem getD_tableSamples (P : Profile) {L i : Nat} (cs : List Rat) (hi : i < L) :
    (tableSamples P L cs).getD i 0 = sampleOf (polyValue P cs.length ((i : Rat) / (L : Rat)) cs) := by
  simp [tableSamples, hi]

/-- A value below 0 truncates up to at most 0 and rounds down below 0: either way the sample is 0. -/
theorem sampleOf_eq_max_floor (v : Rat) : (sampleOf v : Int) = max 0 ⌊v⌋ := by
  rcases le_or_gt 0 v with hv | hv
  · have hfloor : 0 ≤ ⌊v⌋ := Int.floor_nonneg.mpr hv
    have htrunc : truncQ v = ⌊v⌋ := if_pos hv
    simp only [sampleOf, htrunc, if_neg hfloor.not_gt, Int.toNat_of_nonneg hfloor, max_eq_right hfloor]
  · have hfloor : ⌊v⌋ < 0 := Int.floor_lt.mpr (by exact_mod_cast hv)
    have htrunc : truncQ v ≤ 0 := by
      rw [truncQ, if_neg hv.not_ge]
      exact Rat.ceil_le_iff.mpr (by exact_mod_cast hv.le)
    rw [max_eq_left hfloor.le, sampleOf]
    split
    · rfl
    · rw [Int.toNat_of_nonpos htrunc]
      rfl

theorem sampleOf_lt {v : Rat} {n : Nat} (h : v < n) (hn : 0 < n) : sampleOf v < n := by
  have hfloor : ⌊v⌋ < n := Int.floor_lt.mpr (by exact_mod_cast h)
  have hmax : (sampleOf v : Int) < n := by
    rw [sampleOf_eq_max_floor]
    exact max_lt (by exact_mod_cast hn) hfloor
  exact_mod_cast hmax

theorem mem_overflowFlags {P : Profile} {l : List Nat} {w : Warning} :
    w ∈ overflowFlags P l
      ↔ ∃ i, i < l.length ∧ P.smax < l.getD i 0 ∧ w = .sampleOverflow i (l.getD i 0) P.smax := by
  simp only [overflowFlags, List.mem_map, List.mem_filter, decide_eq_true_eq, Prod.exists,
    List.mk_mem_zipIdx_iff_getElem?]
  constructor
  · rintro ⟨v, i, ⟨hv, hlt⟩, rfl⟩
    have hget : l.getD i 0 = v := by rw [List.getD_eq_getElem?_getD, hv, Option.getD_some]
    exact ⟨i, (List.getElem?_eq_some_iff.mp hv).1, hget.symm ▸ hlt, by rw [hget]⟩
  · rintro ⟨i, hi, hlt, rfl⟩
    exact ⟨l.getD i 0, i, ⟨by rw [List.getD_eq_getElem _ _ hi, List.getElem?_eq_getElem hi], hlt⟩, rfl⟩

theorem overflowFlags_of_le {P : Profile} {l : List Nat} (h : ∀ v ∈ l, v ≤ P.smax) : overflowFlags P l = [] := by
  refine List.eq_nil_iff_forall_not_mem.mpr fun w hw => ?_
  obtain ⟨i, hi, hlt, -⟩ := mem_overflowFlags.mp hw
  rw [List.getD_eq_getElem _ _ hi] at hlt
  exact (h _ (List.getElem_mem hi)).not_gt hlt

/-- Coefficients in `[0, 1]` give a shape below half the range at every `i / L`, which is in `[0, 1]`. -/
theorem tableSamples_lt (P : Profile) (L : Nat) {cs : List Rat} (hcs : ∀ c ∈ cs, 0 ≤ c ∧ c ≤ 1) :
    ∀ v ∈ tableSamples P L cs, v < 2 ^ (P.addrBits - 1) := by
  intro v hv
  obtain ⟨i, hi, rfl⟩ := List.mem_map.mp hv
  have hiL : (i : Rat) ≤ L := by exact_mod_cast (List.mem_range.mp hi).le
  have hx₀ : 0 ≤ (i : Rat) / (L : Rat) := by positivity
  have hx₁ : (i : Rat) / (L : Rat) ≤ 1 := div_le_one_of_le₀ hiL (Nat.cast_nonneg L)
  obtain ⟨-, hvalue⟩ := polyValue_bounds P cs.length hx₀ hx₁ hcs
  refine sampleOf_lt ?_ (Nat.two_pow_pos _)
  push_cast
  exact hvalue.trans_lt (degree_ratio_mul_lt _ _)

theorem le_smax_of_lt_half {P : Profile} {v : Nat} (h : v < 2 ^ (P.addrBits - 1)) : v ≤ P.smax :=
  Nat.le_sub_one_of_lt (h.trans_le (Nat.pow_le_pow_right Nat.two_pos (Nat.sub_le ..)))

theorem tableSamples_congr_addrBits {P Q : Profile} (hPQ : P.addrBits = Q.addrBits) (L : Nat) (cs : List Rat) :
    tableSamples P L cs = tableSamples Q L cs := by
  simp only [tableSamples, polyValue, hPQ]

theorem overflowFlags_congr_smax {P Q : Profile} (hPQ : P.smax = Q.smax) (l : List Nat) :
    overflowFlags P l = overflowFlags Q l := by
  rw [overflowFlags, hPQ]
  rfl

theorem synthTable_congr_addrBits {P Q : Profile} (hPQ : P.addrBits = Q.addrBits) (L : Nat) (cs : List Rat) :
    synthTable P L cs = synthTable Q L cs := by
  have hsmax : P.smax = Q.smax := by rw [Profile.smax, hPQ, Profile.smax]
  simp only [synthTable, tableSamples_congr_addrBits hPQ, overflowFlags_congr_smax hsmax]

/-! ### The code of `V2DAC` (R92) -/

theorem clampVoltage_eq_max_min {range : Rat} (hrange : 0 ≤ range) (v : Rat) :
    clampVoltage v range = max 0 (min v range) := by
  rw [clampVoltage]
  split_ifs with hlo hhi
  · rw [min_eq_left (hlo.le.trans hrange), max_eq_left hlo.le]
  · rw [min_eq_right hhi.le, max_eq_right hrange]
  · rw [min_eq_left (not_lt.mp hhi), max_eq_right (not_lt.mp hlo)]

theorem mem_clampFlags {v range : Rat} (hrange : 0 ≤ range) {w : Warning} :
    w ∈ clampFlags v range ↔ (v < 0 ∧ w = .vClampLo v 0) ∨ (range < v ∧ w = .vClampHi v range) := by
  rw [clampFlags]
  split_ifs with hlo hhi
  · simp [hlo, (hlo.le.trans hrange).not_gt]
  · simp [hlo, hhi]
  · simp [hlo, hhi]

theorem natCast_two_pow_sub_one (n : Nat) : ((2 ^ n - 1 : Nat) : Int) = 2 ^ n - 1 := by
  rw [Nat.cast_pred (Nat.two_pow_pos n)]
  norm_cast

/-- The step of R92 divides; the code counts the steps, cut to the largest. -/
theorem dacCode_eq_min_floor (P : Profile) {v range : Rat} (hv : 0 ≤ v) (hrange : 0 < range) :
    (dacCode P v range : Int) = min ⌊v * 2 ^ P.dacBitsRes / range⌋ (2 ^ P.dacBitsRes - 1) := by
  have hstep : v / (range / 2 ^ P.dacBitsRes) = v * 2 ^ P.dacBitsRes / range := div_div_eq_mul_div ..
  have hcode : 0 ≤ ⌊v * 2 ^ P.dacBitsRes / range⌋ := Int.floor_nonneg.mpr (by positivity)
  have hfloor : (v / (range / 2 ^ P.dacBitsRes)).floor = ⌊v * 2 ^ P.dacBitsRes / range⌋ := congrArg Int.floor hstep
  simp only [dacCode, hfloor]
  split_ifs with hbig
  · rw [min_eq_right hbig.le, natCast_two_pow_sub_one]
  · rw [min_eq_left (not_lt.mp hbig), Int.toNat_of_nonneg hcode]

/-- `V2DAC` from any voltage: clamp, step and cut. -/
theorem dacCode_clampVoltage (P : Profile) (v : Rat) {range : Rat} (hrange : 0 < range) :
    (dacCode P (clampVoltage v range) range : Int)
      = min ⌊max 0 (min v range) * 2 ^ P.dacBitsRes / range⌋ (2 ^ P.dacBitsRes - 1) := by
  rw [clampVoltage_eq_max_min hrange.le, dacCode_eq_min_floor P (le_max_left ..) hrange]

theorem dacCode_clampVoltage_mono (P : Profile) {range : Rat} (hrange : 0 < range) {v v' : Rat} (h : v ≤ v') :
    dacCode P (clampVoltage v range) range ≤ dacCode P (clampVoltage v' range) range := by
  rw [← Int.ofNat_le]
  simp only [dacCode_clampVoltage P _ hrange]
  gcongr

/-- A clamped voltage of exactly `n` steps. -/
theorem dacCode_clampVoltage_of_steps {P : Profile} {v range : Rat} (hrange : 0 < range) {n : Nat}
    (hn : max 0 (min v range) * 2 ^ P.dacBitsRes / range = n) :
    dacCode P (clampVoltage v range) range = min n (2 ^ P.dacBitsRes - 1) := by
  have hcode := dacCode_clampVoltage P v hrange
  rw [hn, Int.floor_natCast, ← natCast_two_pow_sub_one] at hcode
  exact_mod_cast hcode

theorem dacCode_of_range_le (P : Profile) {v range : Rat} (hrange : 0 < range) (hv : range ≤ v) :
    dacCode P (clampVoltage v range) range = 2 ^ P.dacBitsRes - 1 := by
  have hsteps : max 0 (min v range) * 2 ^ P.dacBitsRes / range = (2 ^ P.dacBitsRes : Nat) := by
    rw [min_eq_right hv, max_eq_right hrange.le, mul_div_cancel_left₀ _ hrange.ne']
    push_cast
    rfl
  rw [dacCode_clampVoltage_of_steps hrange hsteps, min_eq_right (Nat.sub_le ..)]

theorem dacCode_of_nonpos (P : Profile) {v range : Rat} (hrange : 0 < range) (hv : v ≤ 0) :
    dacCode P (clampVoltage v range) range = 0 := by
  have hsteps : max 0 (min v range) * 2 ^ P.dacBitsRes / range = (0 : Nat) := by
    rw [max_eq_left ((min_le_left ..).trans hv), zero_mul, zero_div, Nat.cast_zero]
  rw [dacCode_clampVoltage_of_steps hrange hsteps, Nat.zero_min]

theorem dacCode_of_half {P : Profile} (hbits : 1 ≤ P.dacBitsRes) {range : Rat} (hrange : 0 < range) :
    dacCode P (clampVoltage (range / 2) range) range = 2 ^ (P.dacBitsRes - 1) := by
  obtain ⟨n, hn⟩ := Nat.exists_eq_add_of_le' hbits
  have hsteps : max 0 (min (range / 2) range) * 2 ^ P.dacBitsRes / range = (2 ^ n : Nat) := by
    rw [min_eq_left (half_le_self hrange.le), max_eq_right (half_pos hrange).le, hn, pow_succ]
    push_cast
    field_simp
  have hcut : 2 ^ n ≤ 2 ^ (n + 1) - 1 := Nat.le_sub_one_of_lt (Nat.pow_lt_pow_succ Nat.one_lt_two)
  rw [dacCode_clampVoltage_of_steps hrange hsteps, hn, min_eq_left hcut, Nat.add_sub_cancel]

theorem voltageRange_pos {ref : Rat} (href : 0 < ref) (m : RefMode) : 0 < voltageRange ref m := by
  cases m with
  | internal => exact mul_pos two_pos href
  | external => exact href

theorem exec_v2dac_of_pos {ref : Rat} (href : 0 < ref) (v : Rat) (m : RefMode) (s : State) :
    exec (.v2dac v ref m) s
      = runFunction (.ok (.natural (dacCode s.profile (clampVoltage v (voltageRange ref m)) (voltageRange ref m)),
          clampFlags v (voltageRange ref m))) s := by
  rw [exec_v2dac, voltageToDac, if_neg href.not_ge]

end Sys2Proof.Machine

open Sys2Proof Sys2Proof.Machine

/-- Settles O21: the padding adds no sample that is flagged, and a read below `L` does not see it. -/
theorem synthSamples : Obligations.SynthSamples := by
  intro s L cs
  have hlen := length_tableSamples s.profile L cs
  refine ⟨(synthTable s.profile L cs).1, (synthTable s.profile L cs).2,
    ?answers, ?length, ?sample, ?padding, ?flags⟩
  case answers => exact runFunction_ok s _ _
  case length => exact (length_padEven _).trans (by rw [hlen])
  case sample =>
    intro i hi
    simp only [synthTable, getD_padEven, getD_tableSamples s.profile cs hi, sampleOf_eq_max_floor]
  case padding =>
    intro hodd
    have hpadded : padEven (tableSamples s.profile L cs) = tableSamples s.profile L cs ++ [0] :=
      if_pos (hlen.symm ▸ hodd)
    simp only [synthTable, hpadded, List.getElem?_append_right hlen.le, hlen, Nat.sub_self]
    rfl
  case flags =>
    intro w
    simp only [synthTable, getD_padEven, mem_overflowFlags, hlen]

/-- Settles O22: the bound of the shape, and `ADDR_BITS` as the only field of the profile that `SYNTH` reads. -/
theorem synthLaws : Obligations.SynthLaws := by
  refine ⟨fun P L cs => length_padEven_even _, ?bounded, ?addrBitsOnly⟩
  case bounded =>
    intro P L cs _ hcs
    have hlt := tableSamples_lt P L hcs
    refine ⟨fun v hv => ⟨Nat.zero_le v, ?_⟩, overflowFlags_of_le fun v hv => le_smax_of_lt_half (hlt v hv)⟩
    rcases mem_padEven hv with hv | rfl
    · exact hlt v hv
    · exact Nat.two_pow_pos _
  case addrBitsOnly =>
    intro s s' L cs hbits
    simp only [exec_synth, synthTable_congr_addrBits hbits]
    exact ⟨_, _, rfl, rfl, rfl, rfl⟩

/-- Settles O23: both modes give a positive range. -/
theorem v2dacConverts : Obligations.V2dacConverts := by
  intro s v ref m range href hint hext
  obtain rfl : range = voltageRange ref m := by
    cases m with
    | internal => exact hint rfl
    | external => exact hext rfl
  have hrange := voltageRange_pos href m
  refine ⟨_, _, ?answers, dacCode_clampVoltage s.profile v hrange, fun w => mem_clampFlags hrange.le⟩
  case answers =>
    unfold Answers
    rw [exec_v2dac_of_pos href]
    exact runFunction_ok s _ _

/-- Settles O24: each corner case is a whole number of steps, and clamp, step and cut are monotone. -/
theorem v2dacMonotone : Obligations.V2dacMonotone := by
  intro P range hP hrange
  exact ⟨fun v => dacCode_of_range_le P hrange, fun v => dacCode_of_nonpos P hrange,
    dacCode_of_half (le_trans (by decide) hP.dacBits_ge) hrange, fun v v' => dacCode_clampVoltage_mono P hrange⟩

/-- Settles O26: both samples are checked in order, and the word is masked whether they fit or not. -/
theorem packpairPacks : Obligations.PackpairPacks := by
  intro s first second lo hi hlow hhigh
  have hexec := exec_packpair_checked first second s
  refine ⟨?answers, ?firstFails, ?secondFails⟩
  case answers =>
    intro hpass
    have hchecks : s.profile.strict = false ∨ [first, second].flatMap (sampleCheck s.profile) = [] :=
      hpass.imp_right fun hfit => flatMap_sampleCheck_of_le (by simpa using hfit)
    refine ⟨_, _, answers_of_checks hexec hchecks, pairWord_toNat hlow hhigh, fun x => ?_⟩
    rw [mem_flags_sampleCheck]
    simp only [List.mem_cons, List.not_mem_nil, or_false]
  case firstFails =>
    intro hstrict hfirst
    exact fails_of_checks hexec hstrict (flatMap_sampleCheck_of_first (before := []) (by simp) hfirst)
  case secondFails =>
    intro hstrict hfirst hsecond
    exact fails_of_checks hexec hstrict
      (flatMap_sampleCheck_of_first (before := [first]) (by simpa using hfirst) hsecond)

/-- Settles O27: the fields of a word, by `PAIR_ORDER`, and the packing that they take apart. -/
theorem unpackpairInverts : Obligations.UnpackpairInverts := by
  refine ⟨fun _ _ => rfl, ?fields, fun P a b hP ha hb => unpairWord_pairWord hP ha hb, rfl⟩
  case fields =>
    rintro s w lo hi - hlo hhi
    rw [← field_low] at hlo
    rw [← field_high] at hhi
    subst hlo hhi
    have hanswers : Answers (.unpackpair w) s (.pair (unpairWord s.profile w).1 (unpairWord s.profile w).2) [] :=
      runFunction_ok s _ []
    refine ⟨fun horder => ?_, fun horder => ?_⟩
    · rwa [unpairWord_evenLow horder] at hanswers
    · rwa [unpairWord_evenHigh horder] at hanswers

/-- Settles O28: the samples are checked in list order, and the padded table is packed pair by pair. -/
theorem packtableUnpacks : Obligations.PacktableUnpacks := by
  refine ⟨fun _ _ => rfl, fun s samples hP => ?_⟩
  have hexec := exec_packtable_checked samples s
  refine ⟨?answers, ?firstFails⟩
  case answers =>
    intro hpass
    exact ⟨_, _, answers_of_checks hexec (hpass.imp_right flatMap_sampleCheck_of_le), length_pairWords ..,
      fun k => getElem?_pairWords s.profile, fun x => mem_flags_sampleCheck, unpair_pairWords hP⟩
  case firstFails =>
    rintro before after v hstrict rfl hbefore hv
    exact fails_of_checks hexec hstrict (flatMap_sampleCheck_of_first hbefore hv)
end

section
/-! PROOFS. The pulse-config codec (R100 to R108): the WaveID, the four registers of a pulse definition with their range
checks and their decoding, the frames of a register write, and the channel-error masks. -/

namespace Sys2Proof.Machine

open Sys2Proof

/-! ### One row of a table of range checks (R103, R143) -/

theorem checkMax_of_le {f : Field} {v b : Nat} (h : v ≤ b) : checkMax f v b = [] :=
  if_pos (decide_eq_true h)

theorem checkMax_of_lt {f : Field} {v b : Nat} (h : b < v) : checkMax f v b = [⟨f, v, b⟩] :=
  if_neg (by simpa using h)

theorem check_eq_nil_iff {ok : Bool} {f : Field} {v b : Rat} : check ok f v b = [] ↔ ok = true := by
  cases ok <;> simp [check]

theorem checkMax_eq_nil_iff {f : Field} {v b : Nat} : checkMax f v b = [] ↔ v ≤ b :=
  check_eq_nil_iff.trans decide_eq_true_iff

theorem mem_flags_check {ok : Bool} {f : Field} {v b : Rat} {x : Warning} :
    x ∈ (check ok f v b).map Violation.flag ↔ ok = false ∧ x = .outOfRange f v b := by
  cases ok <;> simp [check, Violation.flag]

theorem mem_flags_checkMax {f : Field} {v b : Nat} {x : Warning} :
    x ∈ (checkMax f v b).map Violation.flag ↔ b < v ∧ x = .outOfRange f v b := by
  simp [checkMax, mem_flags_check]

/-- Checks that raise no flag and no error have all passed (R143). -/
theorem eq_nil_of_strictness_nil {strict : Bool} {vs : List Violation} (h : strictness strict vs = .ok []) :
    vs = [] := by
  cases vs with
  | nil => rfl
  | cons v vs => cases strict <;> simp [strictness] at h

theorem flagSet_eq_nil_iff {ws : List Warning} : flagSet ws = [] ↔ ws = [] := by
  cases ws <;> simp [flagSet]

/-- Under `STRICT` the head of the list of failed checks is the error (R143). -/
theorem fails_of_head_check {i : Instr} {s : State} {r : Result} {vs : List Violation}
    (hi : exec i s = runFunction ((strictness s.profile.strict vs).map (Prod.mk r)) s)
    (hstrict : s.profile.strict = true) {v : Violation} (hv : vs.head? = some v) :
    Fails i s (.outOfRange v.field v.value v.bound) := by
  obtain ⟨rest, hvs⟩ := List.head?_eq_some_iff.mp hv
  exact fails_of_checks hi hstrict hvs

/-! ### The WaveID (R57, R100, R108) -/

theorem mkWaveId_eq (P : Profile) (l a : Nat) :
    mkWaveId P l a = (strictness P.strict (waveIdChecks l a)).map (Prod.mk (packWaveId l a)) := by
  simp only [mkWaveId]
  cases strictness P.strict (waveIdChecks l a) <;> rfl

theorem exec_mkwaveid_checked (l a : Nat) (s : State) :
    exec (.mkwaveid l a) s
      = runFunction ((strictness s.profile.strict (waveIdChecks l a)).map (Prod.mk (.word (packWaveId l a)))) s := by
  rw [exec_mkwaveid, mkWaveId_eq]
  cases strictness s.profile.strict (waveIdChecks l a) <;> rfl

theorem waveIdChecks_of_le {l a : Nat} (hl : l ≤ 0xFFFF) (ha : a ≤ 0xFFFF) : waveIdChecks l a = [] := by
  rw [waveIdChecks, checkMax_of_le hl, checkMax_of_le ha, List.append_nil]

theorem mem_flags_waveIdChecks {l a : Nat} {x : Warning} :
    x ∈ (waveIdChecks l a).map Violation.flag
      ↔ (0xFFFF < l ∧ x = .outOfRange .waveLen l 0xFFFF) ∨ (0xFFFF < a ∧ x = .outOfRange .waveAddr a 0xFFFF) := by
  simp only [waveIdChecks, List.map_append, List.mem_append, mem_flags_checkMax, Nat.cast_ofNat]

theorem packWaveId_toNat (l a : Nat) : (packWaveId l a).toNat = l % 2 ^ 16 * 2 ^ 16 + a % 2 ^ 16 :=
  toNat_ofNat_fields le_rfl (Nat.mod_lt _ (by decide)) (Nat.mod_lt _ (by decide))

theorem unpackWaveId_eq (w : Word) : unpackWaveId w = (w.toNat / 2 ^ 16, w.toNat % 2 ^ 16) := by
  have hhigh : w.toNat / 2 ^ 16 % 2 ^ 16 = w.toNat / 2 ^ 16 := Nat.mod_eq_of_lt (by omega)
  rw [unpackWaveId, field_high, field_low, hhigh]

theorem unpackWaveId_packWaveId {l a : Nat} (hl : l ≤ 0xFFFF) (ha : a ≤ 0xFFFF) :
    unpackWaveId (packWaveId l a) = (l, a) := by
  rw [unpackWaveId_eq, packWaveId_toNat, Prod.mk.injEq]
  omega

/-! ### The start time (R101) -/

theorem substStart_of_lt {P : Profile} {st : Nat} (h : st < P.pulseStartMin) :
    substStart P 0 st = P.pulseStartMin := if_pos ⟨rfl, h⟩

theorem substStart_of_ne_or_le {P : Profile} {e st : Nat} (h : e ≠ 0 ∨ P.pulseStartMin ≤ st) :
    substStart P e st = st := if_neg (by omega)

theorem pulseStartMin_le_substStart (P : Profile) (st : Nat) : P.pulseStartMin ≤ substStart P 0 st := by
  rcases lt_or_ge st P.pulseStartMin with h | h
  · exact (substStart_of_lt h).ge
  · rwa [substStart_of_ne_or_le (.inr h)]

/-- `ENCPDEF` looks at the start time only after the substitution. -/
theorem encodePdef_congr_substStart {P : Profile} {e st st' : Nat} (h : substStart P e st = substStart P e st')
    (w : WaveOperand) (g f : Rat) (su : Nat) : encodePdef P e st w g f su = encodePdef P e st' w g f su := by
  simp only [encodePdef, pdefChecks, slotWrites, h]

/-! ### The words of a slot (R26 to R29, R102) -/

theorem toNat_ofNat_mod_two_pow {k : Nat} (hk : k ≤ 32) (n : Nat) :
    (BitVec.ofNat 32 (n % 2 ^ k)).toNat = n % 2 ^ k := by
  have hlt : n % 2 ^ k < 2 ^ 32 :=
    (Nat.mod_lt n (Nat.two_pow_pos k)).trans_le (Nat.pow_le_pow_right Nat.two_pos hk)
  rw [BitVec.toNat_ofNat, Nat.mod_eq_of_lt hlt]

theorem startWord_toNat (st : Nat) : (startWord st).toNat = st % 2 ^ 24 := toNat_ofNat_mod_two_pow (by decide) st

theorem sustainWord_toNat (su : Nat) : (sustainWord su).toNat = su % 2 ^ 17 :=
  toNat_ofNat_mod_two_pow (by decide) su

theorem waveWord_id_toNat (id : Nat) : (waveWord (.id id)).toNat = id % 2 ^ 32 := BitVec.toNat_ofNat ..

theorem waveWord_addrLen_toNat (wa wl : Nat) :
    (waveWord (.addrLen wa wl)).toNat = wl % 2 ^ 12 * 2 ^ 16 + wa % 2 ^ 12 :=
  toNat_ofNat_fields le_rfl (by omega) (by omega)

theorem natCast_maskInt (n : Nat) (a : Int) : (maskInt n a : Int) = a % 2 ^ n :=
  Int.toNat_of_nonneg (Int.emod_nonneg _ (by positivity))

theorem maskInt_lt (n : Nat) (a : Int) : maskInt n a < 2 ^ n := by
  have hlt : (maskInt n a : Int) < 2 ^ n := natCast_maskInt n a ▸ Int.emod_lt_of_pos _ (by positivity)
  exact_mod_cast hlt

theorem scaleWord_toNat (g t : Int) : ((scaleWord g t).toNat : Int) = g % 2 ^ 16 * 2 ^ 16 + t % 2 ^ 16 := by
  rw [scaleWord, toNat_ofNat_fields le_rfl (maskInt_lt 16 t) (maskInt_lt 16 g), ← natCast_maskInt,
    ← natCast_maskInt]
  push_cast
  rfl

/-! ### The range checks of `ENCPDEF` (R103) -/

theorem fits16_iff {v : Int} : fits16 v = true ↔ 0 ≤ v ∧ v ≤ 0xFFFF := decide_eq_true_iff

theorem fits16_eq_false_iff {v : Int} : fits16 v = false ↔ ¬ (0 ≤ v ∧ v ≤ 0xFFFF) := decide_eq_false_iff_not

theorem waveChecks_eq_nil_iff {w : WaveOperand} :
    waveChecks w = [] ↔ (∀ id, w = .id id → id ≤ 0xFFFFFFFF)
      ∧ (∀ wa wl, w = .addrLen wa wl → wl ≤ 0xFFF ∧ wa ≤ 0xFFF) := by
  cases w with
  | id id => simp [waveChecks, checkMax_eq_nil_iff]
  | addrLen wa wl => simp [waveChecks, checkMax_eq_nil_iff]

theorem mem_flags_waveChecks {w : WaveOperand} {x : Warning} :
    x ∈ (waveChecks w).map Violation.flag
      ↔ (∃ id, w = .id id ∧ 0xFFFFFFFF < id ∧ x = .outOfRange .waveId id 0xFFFFFFFF)
        ∨ (∃ wa wl, w = .addrLen wa wl ∧ 0xFFF < wl ∧ x = .outOfRange .waveLen wl 0xFFF)
        ∨ (∃ wa wl, w = .addrLen wa wl ∧ 0xFFF < wa ∧ x = .outOfRange .waveAddr wa 0xFFF) := by
  cases w with
  | id id => simp [waveChecks, mem_flags_checkMax]
  | addrLen wa wl => simp only [waveChecks, List.map_append, List.mem_append, mem_flags_checkMax]; simp

section Encpdef

variable {P : Profile} {e st su : Nat} {w : WaveOperand} {gain tf : Rat}

/-- Every row of the table of R103 holds. -/
theorem pdefChecks_eq_nil_iff :
    pdefChecks P e st w gain tf su = [] ↔
      substStart P e st ≤ 0xFFFFFF ∧ waveChecks w = [] ∧ fits16 (scaleGain P gain) = true
        ∧ fits16 (scaleTime P tf) = true ∧ su ≤ 0x1FFFF := by
  simp only [pdefChecks, List.append_eq_nil_iff, checkMax_eq_nil_iff, check_eq_nil_iff, and_assoc]

theorem mem_flags_pdefChecks {x : Warning} :
    x ∈ (pdefChecks P e st w gain tf su).map Violation.flag ↔
      (0xFFFFFF < substStart P e st ∧ x = .outOfRange .start (substStart P e st) 0xFFFFFF)
      ∨ x ∈ (waveChecks w).map Violation.flag
      ∨ (fits16 (scaleGain P gain) = false ∧ x = .outOfRange .gain gain (0xFFFF / 2 ^ (P.gainBits - 1)))
      ∨ (fits16 (scaleTime P tf) = false ∧ x = .outOfRange .timeFactor tf (0xFFFF / 2 ^ P.fracBits))
      ∨ (0x1FFFF < su ∧ x = .outOfRange .sustain su 0x1FFFF) := by
  simp only [pdefChecks, List.map_append, List.mem_append, mem_flags_checkMax, mem_flags_check, or_assoc,
    Nat.cast_ofNat]

/-- What `ENCPDEF` answers for an existing entry and the right form of wave: the checks, then the writes. -/
theorem encodePdef_eq (he : e < P.nSlots) (hw : waveFits P.waveFieldMode w = true) :
    encodePdef P e st w gain tf su
      = (strictness P.strict (pdefChecks P e st w gain tf su)).map
          (Prod.mk (slotWrites P e st w gain tf su)) := by
  simp only [encodePdef, if_neg he.not_ge, hw, Bool.true_eq_false, if_false]
  cases strictness P.strict (pdefChecks P e st w gain tf su) <;> rfl

/-- `ENCPDEF` gives writes only for an existing entry and the right form of wave, its checks passed or flagged. -/
theorem encodePdef_ok {writes : List (Nat × Word)} {ws : List Warning}
    (h : encodePdef P e st w gain tf su = .ok (writes, ws)) :
    e < P.nSlots ∧ waveFits P.waveFieldMode w = true
      ∧ strictness P.strict (pdefChecks P e st w gain tf su) = .ok ws
      ∧ writes = slotWrites P e st w gain tf su := by
  have he : e < P.nSlots := by
    by_contra he
    simp [encodePdef, not_lt.mp he] at h
  have hw : waveFits P.waveFieldMode w = true := by
    by_contra hw
    rw [Bool.not_eq_true] at hw
    simp [encodePdef, he.not_ge, hw] at h
  rw [encodePdef_eq he hw] at h
  cases hs : strictness P.strict (pdefChecks P e st w gain tf su) with
  | error err => simp [hs, Except.map] at h
  | ok flags =>
    simp only [hs, Except.map, Except.ok.injEq, Prod.mk.injEq] at h
    obtain ⟨rfl, rfl⟩ := h
    exact ⟨he, hw, rfl, rfl⟩

end Encpdef

theorem exec_encpdef_checked {s : State} {e : Nat} {w : WaveOperand} (he : e < s.profile.nSlots)
    (hw : waveFits s.profile.waveFieldMode w = true) (st : Nat) (gain tf : Rat) (su : Nat) :
    exec (.encpdef e st w gain tf su) s
      = runFunction ((strictness s.profile.strict (pdefChecks s.profile e st w gain tf su)).map
          (Prod.mk (.writes (slotWrites s.profile e st w gain tf su)))) s := by
  rw [exec_encpdef, encodePdef_eq he hw]
  cases strictness s.profile.strict (pdefChecks s.profile e st w gain tf su) <;> rfl

/-- An `ENCPDEF` that answers has encoded its operands, and its answer is their encoding with the flags. -/
theorem encpdef_answer {s t : State} {e st su : Nat} {w : WaveOperand} {gain tf : Rat} {r : Result}
    (hx : exec (.encpdef e st w gain tf su) s = .next t) (hr : t.response.result = some r) :
    ∃ writes ws, encodePdef s.profile e st w gain tf su = .ok (writes, ws) ∧ r = .writes writes
      ∧ t = (s.start.warn ws).succeed r := by
  rw [exec_encpdef] at hx
  obtain ⟨r', ws, hf, rfl⟩ | ⟨err, -, rfl⟩ := runFunction_next hx
  · obtain rfl : r' = r := by simpa using hr
    cases henc : encodePdef s.profile e st w gain tf su with
    | error err => simp [henc] at hf
    | ok x =>
      simp only [henc, Except.ok.injEq, Prod.mk.injEq] at hf
      obtain ⟨rfl, rfl⟩ := hf
      exact ⟨_, _, rfl, rfl, rfl⟩
  · simp at hr

/-! ### The fields of a quadruple (R104) -/

theorem field_eq (w : Word) (lo width : Nat) : field w lo width = w.toNat / 2 ^ lo % 2 ^ width := by
  rw [field, Nat.shiftRight_eq_div_pow]

/-- The upper half of a word has no bits above it to mask. -/
theorem field_upper_half (w : Word) : field w 16 16 = w.toNat / 2 ^ 16 := by
  rw [field_eq]
  exact Nat.mod_eq_of_lt (by omega)

theorem decodeWave_waveId {mode : WaveFieldMode} (h : mode = .waveId) (r1 : Word) :
    decodeWave mode r1 = .id r1.toNat := by
  rw [h, decodeWave]

theorem decodeWave_addrLen {mode : WaveFieldMode} (h : mode = .addrLen) (r1 : Word) :
    decodeWave mode r1 = .addrLen (r1.toNat % 2 ^ 12) (r1.toNat / 2 ^ 16 % 2 ^ 12) := by
  rw [h, decodeWave, field_low, field_eq]

theorem word_eq_zero_iff {w : Word} : w = 0 ↔ w.toNat = 0 := BitVec.toNat_inj.symm

section Decpdef

variable {r0 r1 r2 r3 : Word}

theorem rawEmpty_eq_true_iff : rawEmpty r0 r1 r2 r3 = true ↔ r0 = 0 ∧ r1 = 0 ∧ r2 = 0 ∧ r3 = 0 :=
  decide_eq_true_iff

theorem decpdef_answers_empty (s : State) (h : r0 = 0 ∧ r1 = 0 ∧ r2 = 0 ∧ r3 = 0) :
    Answers (.decpdef r0 r1 r2 r3) s .empty [] := by
  unfold Answers
  rw [exec_decpdef, decodeQuad, if_pos (rawEmpty_eq_true_iff.mpr h)]
  exact runFunction_ok s .empty []

theorem decpdef_answers_fields (s : State) (h : ¬ (r0 = 0 ∧ r1 = 0 ∧ r2 = 0 ∧ r3 = 0)) :
    Answers (.decpdef r0 r1 r2 r3) s (.pulse (decodeFields s.profile r0 r1 r2 r3)) [] := by
  unfold Answers
  rw [exec_decpdef, decodeQuad, if_neg (mt rawEmpty_eq_true_iff.mp h)]
  exact runFunction_ok s (.pulse _) []

end Decpdef

/-! ### A pulse definition encoded and decoded (R105) -/

theorem maskInt_of_fits16 {v : Int} (h : fits16 v = true) : (maskInt 16 v : Int) = v := by
  obtain ⟨h0, h1⟩ := fits16_iff.mp h
  rw [natCast_maskInt]
  exact Int.emod_eq_of_lt h0 (by omega)

theorem field_scaleWord_gain {g : Int} (hg : fits16 g = true) (t : Int) :
    (field (scaleWord g t) 16 16 : Rat) = g := by
  rw [scaleWord, field_high_of_fields le_rfl (maskInt_lt 16 t) (maskInt_lt 16 g)]
  exact_mod_cast maskInt_of_fits16 hg

theorem field_scaleWord_time (g : Int) {t : Int} (ht : fits16 t = true) :
    (field (scaleWord g t) 0 16 : Rat) = t := by
  rw [scaleWord, field_low_of_fields le_rfl (maskInt_lt 16 t) (maskInt_lt 16 g)]
  exact_mod_cast maskInt_of_fits16 ht

theorem field_startWord {st : Nat} (h : st ≤ 0xFFFFFF) : field (startWord st) 0 24 = st := by
  rw [field_low, startWord_toNat, Nat.mod_mod, Nat.mod_eq_of_lt (by omega)]

theorem field_sustainWord {su : Nat} (h : su ≤ 0x1FFFF) : field (sustainWord su) 0 17 = su := by
  rw [field_low, sustainWord_toNat, Nat.mod_mod, Nat.mod_eq_of_lt (by omega)]

theorem decodeWave_waveWord {mode : WaveFieldMode} {w : WaveOperand} (hmode : waveFits mode w = true)
    (hrange : waveChecks w = []) : decodeWave mode (waveWord w) = w := by
  obtain ⟨hid, haddrLen⟩ := waveChecks_eq_nil_iff.mp hrange
  cases w with
  | id id =>
    have hle := hid id rfl
    cases mode with
    | waveId => rw [decodeWave_waveId rfl, waveWord_id_toNat, Nat.mod_eq_of_lt (by omega)]
    | addrLen => cases hmode
  | addrLen wa wl =>
    obtain ⟨hwl, hwa⟩ := haddrLen wa wl rfl
    cases mode with
    | waveId => cases hmode
    | addrLen =>
      rw [decodeWave_addrLen rfl, waveWord_addrLen_toNat, WaveOperand.addrLen.injEq]
      omega

/-- The words of operands that all fit decode to the operands, the gain and the time factor as scaled and rounded. -/
theorem decodeFields_slot {P : Profile} {e st su : Nat} {w : WaveOperand} {gain tf : Rat}
    (hmode : waveFits P.waveFieldMode w = true) (hrange : pdefChecks P e st w gain tf su = []) :
    decodeFields P (startWord (substStart P e st)) (waveWord w) (scaleWord (scaleGain P gain) (scaleTime P tf))
        (sustainWord su)
      = ⟨substStart P e st, w, scaleGain P gain / 2 ^ (P.gainBits - 1), scaleTime P tf / 2 ^ P.fracBits, su⟩ := by
  obtain ⟨hst, hwave, hgain, htime, hsu⟩ := pdefChecks_eq_nil_iff.mp hrange
  simp only [decodeFields, field_startWord hst, decodeWave_waveWord hmode hwave, field_scaleWord_gain hgain,
    field_scaleWord_time _ htime, field_sustainWord hsu]

/-- Scaling by `2^n`, rounding and scaling back moves a value by at most half a step (R12). -/
theorem abs_roundQ_scaled_sub_le (tie : RoundTie) (x : Rat) (n : Nat) :
    |(roundQ tie (x * 2 ^ n) : Rat) / 2 ^ n - x| ≤ 1 / 2 ^ (n + 1) := by
  have hpos : (0 : Rat) < 2 ^ n := by positivity
  calc |(roundQ tie (x * 2 ^ n) : Rat) / 2 ^ n - x|
      = |(roundQ tie (x * 2 ^ n) - x * 2 ^ n) / 2 ^ n| := by rw [sub_div, mul_div_cancel_right₀ x hpos.ne']
    _ = |x * 2 ^ n - roundQ tie (x * 2 ^ n)| / 2 ^ n := by rw [abs_div, abs_of_pos hpos, abs_sub_comm]
    _ ≤ 1 / 2 / 2 ^ n := by gcongr; exact abs_sub_roundQ_le tie _
    _ = 1 / 2 ^ (n + 1) := by rw [div_div, pow_succ']

theorem scaleGain_error {P : Profile} (hP : P.WF) (gain : Rat) :
    |(scaleGain P gain : Rat) / 2 ^ (P.gainBits - 1) - gain| ≤ 1 / 2 ^ P.gainBits := by
  have herror := abs_roundQ_scaled_sub_le P.roundTie gain (P.gainBits - 1)
  rwa [Nat.sub_add_cancel hP.gainBits_ge] at herror

theorem scaleTime_error (P : Profile) (tf : Rat) :
    |(scaleTime P tf : Rat) / 2 ^ P.fracBits - tf| ≤ 1 / 2 ^ (P.fracBits + 1) :=
  abs_roundQ_scaled_sub_le P.roundTie tf P.fracBits

theorem one_div_two_pow_anti {m n : Nat} (h : m ≤ n) : (1 : Rat) / 2 ^ n ≤ 1 / 2 ^ m :=
  one_div_le_one_div_of_le (by positivity) (pow_le_pow_right₀ one_le_two h)

/-! ### The frames of a register write (R59 to R61, R106) -/

/-- The `COMMIT.x` of a space (R61). -/
def commitInstr : Space → Addr → Instr
  | .pdef => .commitPdef
  | .wave => .commitWave
  | .dc => .commitDc
  | .misc => .commitMisc

/-- The `UWRITE.x` of a space (R61). -/
def uwriteInstr : Space → Word48 → Instr
  | .pdef => .uwritePdef
  | .wave => .uwriteWave
  | .dc => .uwriteDc
  | .misc => .uwriteMisc

section WriteFrames

variable {P : Profile} {space : Space}

theorem instrOfCmd_writeCmd_legacy (hrev : P.protoRev = .legacy) (n : Nat) :
    instrOfCmd P (writeCmd space) n = commitInstr space (BitVec.ofNat 16 n) := by
  cases space <;> simp only [instrOfCmd, writeCmd, commitInstr, hrev]

theorem instrOfCmd_writeCmd_unified (hrev : P.protoRev = .unified) (n : Nat) :
    instrOfCmd P (writeCmd space) n = uwriteInstr space (BitVec.ofNat 48 n) := by
  cases space <;> simp only [instrOfCmd, writeCmd, uwriteInstr, hrev]

theorem operandInRange_writeCmd (n : Nat) : operandInRange P (writeCmd space) n = writeOperandInRange P n := by
  cases space <;> rfl

theorem commandFrame_writeCmd (n : Nat) : commandFrame P (writeCmd space) n = frame1 P (writeCmd space) n := by
  cases space <;> rfl

theorem writeFrames_unified (hrev : P.protoRev = .unified) (a v : Nat) :
    writeFrames P space a v = [frame1 P (writeCmd space) (a % 2 ^ 16 * 2 ^ 32 + v % 2 ^ 32)] := by
  simp only [writeFrames, hrev, packWord48_toNat]

theorem writeFrames_legacy (hrev : P.protoRev = .legacy) (a v : Nat) :
    writeFrames P space a v = [frame1 P .dataset (v % 2 ^ 32), frame1 P (writeCmd space) (a % 2 ^ 16)] := by
  simp only [writeFrames, hrev]

theorem decodeLink_uwrite (hP : P.WF) (hrev : P.protoRev = .unified) {n : Nat} (hn : n < 2 ^ 48) :
    decodeLink P (frame1 P (writeCmd space) n) = ([uwriteInstr space (BitVec.ofNat 48 n)], .tail []) := by
  have hrange : operandInRange P (writeCmd space) n = true :=
    (operandInRange_writeCmd n).trans (writeOperandInRange_iff.mpr (.inr ⟨hrev, hn⟩))
  have hframe := decodeLink_commandFrame hP hrange []
  rwa [commandFrame_writeCmd, List.append_nil, instrOfCmd_writeCmd_unified hrev] at hframe

theorem decodeLink_commit (hP : P.WF) (hrev : P.protoRev = .legacy) {n : Nat} (hn : n < 2 ^ 16) :
    decodeLink P (frame1 P (writeCmd space) n) = ([commitInstr space (BitVec.ofNat 16 n)], .tail []) := by
  have hrange : operandInRange P (writeCmd space) n = true :=
    (operandInRange_writeCmd n).trans (writeOperandInRange_iff.mpr (.inl ⟨hrev, hn⟩))
  have hframe := decodeLink_commandFrame hP hrange []
  rwa [commandFrame_writeCmd, List.append_nil, instrOfCmd_writeCmd_legacy hrev] at hframe

/-- The stage frame at the head of a legacy stream is its `STAGE`. -/
theorem decodeLink_stage (hP : P.WF) (hrev : P.protoRev = .legacy) {n : Nat} (hn : n < 2 ^ 32)
    (rest : List Byte) :
    decodeLink P (frame1 P .dataset n ++ rest)
      = (.stage (BitVec.ofNat 32 n) :: (decodeLink P rest).1, (decodeLink P rest).2) :=
  decodeLink_commandFrame hP (c := .dataset)
    (Bool.and_eq_true_iff.mpr ⟨decide_eq_true hrev, decide_eq_true hn⟩) rest

theorem encw_answers_writeFrames (s : State) (space : Space) (a v : Nat) :
    Answers (.encw a v (s.profile.cmd.byteOf (writeCmd space))) s
      (.frames (writeFrames s.profile space a v)) [] := by
  unfold Answers
  rw [exec_encw, encodeWrite_writeCmd]
  exact runFunction_ok s _ []

end WriteFrames

theorem ofNat_mod_two_pow (width n : Nat) : BitVec.ofNat width (n % 2 ^ width) = BitVec.ofNat width n :=
  BitVec.eq_of_toNat_eq (by simp)

/-! ### The channel-error masks (R69, R107) -/

/-- The reports of one entry: its kind, with each channel of its mask. -/
def entryReports (n : Nat) (km : String × Word) : List (String × Nat) :=
  (maskChannels n km.2).map fun ch => (km.1, ch)

theorem decodeErrors_of_lt {P : Profile} {m : List (String × Word)}
    (h : ∀ km ∈ m, km.2.toNat < 2 ^ P.cMaxChannels) :
    decodeErrors P m = .ok (m.flatMap (entryReports P.cMaxChannels)) := by
  induction m with
  | nil => rfl
  | cons km m ih =>
    obtain ⟨hkm, hm⟩ := List.forall_mem_cons.mp h
    rw [decodeErrors, if_neg hkm.not_ge, ih hm, List.flatMap_cons]
    rfl

/-- The first mask with a bit that has no channel is the error, whatever comes after it. -/
theorem decodeErrors_of_first_ge {P : Profile} {before after : List (String × Word)} {k : String} {mask : Word}
    (hbefore : ∀ km ∈ before, km.2.toNat < 2 ^ P.cMaxChannels) (hmask : 2 ^ P.cMaxChannels ≤ mask.toNat) :
    decodeErrors P (before ++ (k, mask) :: after)
      = .error (.badOperand .mask (.num mask.toNat) (.atMost (2 ^ P.cMaxChannels - 1))) := by
  induction before with
  | nil => exact if_pos hmask
  | cons km before ih =>
    obtain ⟨hkm, hrest⟩ := List.forall_mem_cons.mp hbefore
    rw [List.cons_append, decodeErrors, if_neg hkm.not_ge, ih hrest]

theorem deccherr_answers {s : State} {m : List (String × Word)}
    (h : ∀ km ∈ m, km.2.toNat < 2 ^ s.profile.cMaxChannels) :
    Answers (.deccherr m) s (.reports (m.flatMap (entryReports s.profile.cMaxChannels))) [] := by
  unfold Answers
  rw [exec_deccherr, decodeErrors_of_lt h]
  exact runFunction_ok s _ []

theorem entryReports_eq (n : Nat) (km : String × Word) :
    entryReports n km
      = ((List.range n).filter fun j => km.2.toNat.testBit j).map fun j => (km.1, n - 1 - j) :=
  List.map_map

theorem length_entryReports (n : Nat) (km : String × Word) :
    (entryReports n km).length = (List.range n).countP fun j => km.2.toNat.testBit j := by
  rw [entryReports_eq, List.length_map, List.countP_eq_length_filter]

/-- Reversing the bits twice is the identity: channel `ch` is reported for bit `n - 1 - ch` alone. -/
theorem mem_maskChannels {n : Nat} {mask : Word} {ch : Nat} :
    ch ∈ maskChannels n mask ↔ ch < n ∧ mask.toNat.testBit (n - 1 - ch) = true := by
  simp only [maskChannels, List.mem_map, List.mem_filter, List.mem_range]
  constructor
  · rintro ⟨j, ⟨hj, hbit⟩, rfl⟩
    refine ⟨by omega, ?_⟩
    rwa [show n - 1 - (n - 1 - j) = j by omega]
  · rintro ⟨hch, hbit⟩
    exact ⟨n - 1 - ch, ⟨by omega, hbit⟩, by omega⟩

theorem mem_flatMap_entryReports {n : Nat} {m : List (String × Word)} {k : String} {ch : Nat} :
    (k, ch) ∈ m.flatMap (entryReports n)
      ↔ ch < n ∧ ∃ mask, (k, mask) ∈ m ∧ mask.toNat.testBit (n - 1 - ch) = true := by
  simp only [List.mem_flatMap, entryReports, List.mem_map, Prod.mk.injEq, mem_maskChannels, Prod.exists]
  constructor
  · rintro ⟨_, mask, hm, _, ⟨hch, hbit⟩, rfl, rfl⟩
    exact ⟨hch, mask, hm, hbit⟩
  · rintro ⟨hch, mask, hm, hbit⟩
    exact ⟨k, mask, hm, ch, ⟨hch, hbit⟩, rfl, rfl⟩

/-- Bits ascending are channels descending. -/
theorem pairwise_maskChannels (n : Nat) (mask : Word) : (maskChannels n mask).Pairwise fun x y => y < x := by
  have hbits : ((List.range n).filter fun j => mask.toNat.testBit j).Pairwise (· < ·) :=
    List.pairwise_lt_range.filter _
  refine List.pairwise_map.mpr (hbits.imp_of_mem fun {i j} _ hj hij => ?_)
  have hjn : j < n := List.mem_range.mp (List.mem_of_mem_filter hj)
  omega

end Sys2Proof.Machine

open Sys2Proof Sys2Proof.Machine

/-- Settles O34: no flag means that every check passed, so every field of the words is its operand, the two scaled ones
within half a step. -/
theorem pulseRoundTrip : Obligations.PulseRoundTrip := by
  intro s t e st w gain tf su r0 r1 r2 r3 hP hx hresult hflags hne
  obtain ⟨writes, ws, henc, hr, rfl⟩ := encpdef_answer hx hresult
  obtain ⟨-, hmode, hstrictness, rfl⟩ := encodePdef_ok henc
  have hws : ws = [] := flagSet_eq_nil_iff.mp (by simpa [Response.blank] using hflags)
  subst hws
  have hrange := eq_nil_of_strictness_nil hstrictness
  simp only [Result.writes.injEq, slotWrites, List.cons.injEq, Prod.mk.injEq] at hr
  obtain ⟨⟨-, rfl⟩, ⟨-, rfl⟩, ⟨-, rfl⟩, ⟨-, rfl⟩, -⟩ := hr
  have hdecoded := decodeFields_slot hmode hrange
  have hgain := scaleGain_error hP gain
  have htime := scaleTime_error s.profile tf
  refine ⟨_, decpdef_answers_fields _ hne, ?_⟩
  rw [succeed_profile, warn_profile, start_profile, hdecoded]
  exact ⟨rfl, rfl, rfl, hgain, htime, fun hbits =>
    ⟨hgain.trans (one_div_two_pow_anti hbits), htime.trans (one_div_two_pow_anti (Nat.le_succ _))⟩⟩

/-- Settles O29: the two halves are checked length first, and the word is masked whether they fit or not. -/
theorem waveIdPacksAndUnpacks : Obligations.WaveIdPacksAndUnpacks := by
  refine ⟨fun _ _ _ => rfl, fun _ _ => rfl, ?answers, ?lengthFails, ?addressFails, ?unpacks,
    fun _ _ => unpackWaveId_packWaveId, by decide⟩
  case answers =>
    intro s l a hpass
    have hchecks := hpass.imp_right fun hfit => waveIdChecks_of_le hfit.1 hfit.2
    exact ⟨_, _, answers_of_checks (exec_mkwaveid_checked l a s) hchecks, packWaveId_toNat l a,
      fun x => mem_flags_waveIdChecks⟩
  case lengthFails =>
    intro s l a hstrict hl
    refine fails_of_head_check (exec_mkwaveid_checked l a s) hstrict (v := ⟨.waveLen, l, 0xFFFF⟩) ?_
    simp [waveIdChecks, checkMax_of_lt hl]
  case addressFails =>
    intro s l a hstrict hl ha
    refine fails_of_head_check (exec_mkwaveid_checked l a s) hstrict (v := ⟨.waveAddr, a, 0xFFFF⟩) ?_
    simp [waveIdChecks, checkMax_of_le hl, checkMax_of_lt ha]
  case unpacks =>
    intro s w
    have hanswers : Answers (.unwaveid w) s (.pair (unpackWaveId w).1 (unpackWaveId w).2) [] :=
      runFunction_ok s _ []
    rwa [unpackWaveId_eq] at hanswers

/-- Settles O30: the substitution is the only use of the start time, and its result is masked. -/
theorem startSubstitutedAtEntryZero : Obligations.StartSubstitutedAtEntryZero := by
  refine ⟨fun _ _ => substStart_of_lt, fun _ _ _ => substStart_of_ne_or_le, pulseStartMin_le_substStart,
    ?sameAsMinimum, ?startWord, ?sourceExample⟩
  case sameAsMinimum =>
    intro s st w g f su hst t
    have hsubst : substStart s.profile 0 st = substStart s.profile 0 s.profile.pulseStartMin := by
      rw [substStart_of_lt hst, substStart_of_ne_or_le (.inr le_rfl)]
    rw [exec_encpdef, exec_encpdef, encodePdef_congr_substStart hsubst]
  case startWord =>
    intro s t e st w g f su a r0 rest hx hresult
    obtain ⟨writes, ws, henc, hr, -⟩ := encpdef_answer hx hresult
    obtain ⟨-, -, -, rfl⟩ := encodePdef_ok henc
    simp only [Result.writes.injEq, slotWrites, List.cons.injEq, Prod.mk.injEq] at hr
    obtain ⟨⟨-, rfl⟩, -⟩ := hr
    exact startWord_toNat _
  case sourceExample =>
    have henc : encodePdef State.reset.profile 0 3 (.id 0x00010000) 1 1 0
        = .ok ([(0, 0x4#32), (1, 0x00010000#32), (2, 0x80000100#32), (3, 0x0#32)], []) := by decide +kernel
    unfold Answers
    rw [exec_encpdef, henc]
    exact runFunction_ok _ _ []

/-- Settles O31: the table of R103 gives the flags, and every field is masked whether it fits or not. -/
theorem encpdefRegisters : Obligations.EncpdefRegisters := by
  rintro s e st w gain tf su _ _ _ he hmode rfl rfl rfl hpass
  have hchecks : s.profile.strict = false ∨ pdefChecks s.profile e st w gain tf su = [] :=
    hpass.imp_right fun ⟨hst, hid, haddrLen, hg0, hg1, ht0, ht1, hsu⟩ =>
      pdefChecks_eq_nil_iff.mpr ⟨hst, waveChecks_eq_nil_iff.mpr ⟨hid, haddrLen⟩, fits16_iff.mpr ⟨hg0, hg1⟩,
        fits16_iff.mpr ⟨ht0, ht1⟩, hsu⟩
  refine ⟨_, _, _, _, _, answers_of_checks (exec_encpdef_checked he hmode st gain tf su) hchecks,
    startWord_toNat _, ?waveId, ?addrLen, scaleWord_toNat _ _, sustainWord_toNat su, fun x => ?flags⟩
  case waveId =>
    rintro id rfl
    exact waveWord_id_toNat id
  case addrLen =>
    rintro wa wl rfl
    exact waveWord_addrLen_toNat wa wl
  case flags =>
    rw [mem_flags_pdefChecks, mem_flags_waveChecks, fits16_eq_false_iff, fits16_eq_false_iff]
    simp only [or_assoc]
    rfl

/-- Settles O32: each failing row of the table of R103 is the head of the failed checks once the rows above it hold. -/
theorem encpdefStrictFirstField : Obligations.EncpdefStrictFirstField := by
  intro s e st w gain tf su hstrict he hmode
  have hfails {v : Violation} := fails_of_head_check (v := v) (exec_encpdef_checked he hmode st gain tf su) hstrict
  refine ⟨?start, ?waveId, ?waveLen, ?waveAddr, ?fields⟩
  case start =>
    intro hst
    refine hfails (v := ⟨.start, substStart s.profile e st, 0xFFFFFF⟩) ?_
    simp [pdefChecks, checkMax_of_lt hst]
  case waveId =>
    rintro hst id rfl hid
    refine hfails (v := ⟨.waveId, id, 0xFFFFFFFF⟩) ?_
    simp [pdefChecks, checkMax_of_le hst, waveChecks, checkMax_of_lt hid]
  case waveLen =>
    rintro hst wa wl rfl hwl
    refine hfails (v := ⟨.waveLen, wl, 0xFFF⟩) ?_
    simp [pdefChecks, checkMax_of_le hst, waveChecks, checkMax_of_lt hwl]
  case waveAddr =>
    rintro hst wa wl rfl hwl hwa
    refine hfails (v := ⟨.waveAddr, wa, 0xFFF⟩) ?_
    simp [pdefChecks, checkMax_of_le hst, waveChecks, checkMax_of_le hwl, checkMax_of_lt hwa]
  case fields =>
    intro hst hid haddrLen
    have hwave := waveChecks_eq_nil_iff.mpr ⟨hid, haddrLen⟩
    refine ⟨fun hgain => ?gain, fun hgain htime => ?timeFactor, fun hgain htime hsu => ?sustain⟩
    case gain =>
      refine hfails (v := ⟨.gain, gain, 0xFFFF / 2 ^ (s.profile.gainBits - 1)⟩) ?_
      simp [pdefChecks, checkMax_of_le hst, hwave, check, hgain]
    case timeFactor =>
      refine hfails (v := ⟨.timeFactor, tf, 0xFFFF / 2 ^ s.profile.fracBits⟩) ?_
      simp [pdefChecks, checkMax_of_le hst, hwave, check, hgain, htime]
    case sustain =>
      refine hfails (v := ⟨.sustain, su, 0x1FFFF⟩) ?_
      simp [pdefChecks, checkMax_of_le hst, hwave, check, hgain, htime, checkMax_of_lt hsu]

/-- Settles O33: the raw test, then the fields. -/
theorem decpdefFields : Obligations.DecpdefFields := by
  refine ⟨fun _ _ _ _ _ => rfl, fun s r0 r1 r2 r3 => ?_⟩
  simp only [← word_eq_zero_iff]
  refine ⟨decpdef_answers_empty s, fun hne w hid haddrLen => ?_⟩
  have hwave : decodeWave s.profile.waveFieldMode r1 = w := by
    cases hmode : s.profile.waveFieldMode with
    | waveId => rw [decodeWave_waveId rfl, hid hmode]
    | addrLen => rw [decodeWave_addrLen rfl, haddrLen hmode]
  have hfields := decpdef_answers_fields s hne
  simpa only [decodeFields, hwave, field_upper_half, field_low] using hfields

/-- Settles O35: each selector is the byte of a space's write command, and its frames are legal in the revision. -/
theorem encwFrames : Obligations.EncwFrames := by
  intro s a v b commit uwrite hP hb
  obtain ⟨space, rfl, rfl, rfl⟩ : ∃ space, b = s.profile.cmd.byteOf (writeCmd space)
      ∧ commit = commitInstr space ∧ uwrite = uwriteInstr space := by
    simp only [List.mem_cons, List.not_mem_nil, or_false, Prod.mk.injEq] at hb
    obtain h | h | h | h := hb
    exacts [⟨.pdef, h⟩, ⟨.wave, h⟩, ⟨.dc, h⟩, ⟨.misc, h⟩]
  have hanswers := encw_answers_writeFrames s space a v
  refine ⟨fun hrev => ⟨?unifiedFrame, ?uwrite⟩, fun hrev => ⟨?legacyFrames, ?stageCommit⟩⟩
  case unifiedFrame => exact writeFrames_unified hrev a v ▸ hanswers
  case legacyFrames => exact writeFrames_legacy hrev a v ▸ hanswers
  case uwrite => exact decodeLink_uwrite hP hrev (by omega)
  case stageCommit =>
    have hstage := decodeLink_stage hP hrev (Nat.mod_lt v (Nat.two_pow_pos 32))
      (frame1 s.profile (writeCmd space) (a % 2 ^ 16))
    rwa [decodeLink_commit hP hrev (Nat.mod_lt a (Nat.two_pow_pos 16)), ofNat_mod_two_pow, ofNat_mod_two_pow]
      at hstage

/-- Settles O36: the reports entry by entry, or the first mask with a bit that has no channel. -/
theorem deccherrReversesBits : Obligations.DeccherrReversesBits := by
  refine ⟨fun s m hm => ⟨_, deccherr_answers hm, ?list, fun k ch => mem_flatMap_entryReports, ?count, ?descending⟩,
    ?fails, fun s hn => ?bits⟩
  case list => exact List.flatMap_congr fun km _ => entryReports_eq _ km
  case count => simp only [List.length_flatMap, length_entryReports]
  case descending =>
    rintro k mask rfl
    simpa [entryReports, List.pairwise_map] using pairwise_maskChannels _ mask
  case fails =>
    intro s before after k mask hbefore hmask
    unfold Fails
    rw [exec_deccherr, decodeErrors_of_first_ge hbefore hmask]
    exact runFunction_error s _
  case bits =>
    have hall (mask : Word) : Answers (.deccherr [("X", mask)]) s (.reports (entryReports 32 ("X", mask))) [] := by
      have hanswers := deccherr_answers (s := s) (m := [("X", mask)]) (by simpa [hn] using mask.isLt)
      rwa [hn, List.flatMap_singleton] at hanswers
    have hbit0 : entryReports 32 ("X", 0x00000001#32) = [("X", 31)] := by decide
    have hbits0And31 : entryReports 32 ("X", 0x80000001#32) = [("X", 31), ("X", 0)] := by decide
    exact ⟨hbit0 ▸ hall _, hbits0And31 ▸ hall _⟩
end

section
/-! PROOFS. The device commands (R115 to R129, R139, R176 to R178): what a store leaves in its space, one exchange on
the Link, and from these what every write, read, selection and query does. -/

namespace Sys2Proof

open Machine

theorem SameContexts.trans {s t u : State} (h : SameContexts s t) (k : SameContexts t u) : SameContexts s u :=
  ⟨fun ch a => (k.pdef ch a).trans (h.pdef ch a), fun ch a => (k.wram ch a).trans (h.wram ch a)⟩

theorem SameCommon.trans {s t u : State} (h : SameCommon s t) (k : SameCommon t u) : SameCommon s u :=
  ⟨fun a => (k.dc a).trans (h.dc a), fun a => (k.misc a).trans (h.misc a)⟩

end Sys2Proof

namespace Sys2Proof.Machine

open Sys2Proof

/-! ### States that read the same -/

/-- Every register and every sample reads the same. -/
structure SameReads (s t : State) : Prop where
  contexts : SameContexts s t
  common : SameCommon s t

theorem sameReads_of_spaces {s t : State} (h : SameSpaces s t) (hepoch : t.epoch = s.epoch)
    (hprofile : t.profile = s.profile) : SameReads s t where
  contexts := ⟨pdefAt_congr h.pdef hepoch, sampleAt_congr h.wram hepoch hprofile⟩
  common := ⟨dcAt_congr h.dcreg hepoch, miscAt_congr h.misc hepoch⟩

theorem SameReads.trans {s t u : State} (h : SameReads s t) (k : SameReads t u) : SameReads s u :=
  ⟨h.contexts.trans k.contexts, h.common.trans k.common⟩

/-! ### What a store leaves in its space (R117 to R120) -/

/-- The pulse-definition register at an address of every channel reached holds a value, and everything else reads as
before. -/
structure PdefStored (s t : State) (a : Nat) (v : Word) : Prop where
  held : ∀ ch, Reached s ch → RegisterHolds s.profile a v (t.pdefAt ch a)
  others : ∀ ch b, ¬ (Reached s ch ∧ b = a) → t.pdefAt ch b = s.pdefAt ch b
  wram : ∀ ch b, t.sampleAt ch b = s.sampleAt ch b
  common : SameCommon s t

/-- The two samples of a pair of every channel reached are the fields of a value, and everything else reads as
before. -/
structure PairStored (s t : State) (p : Nat) (v : Word) : Prop where
  held : ∀ ch, Reached s ch →
    t.sampleAt ch (2 * p) = (unpairWord s.profile v).1 ∧ t.sampleAt ch (2 * p + 1) = (unpairWord s.profile v).2
  others : ∀ ch b, ¬ (Reached s ch ∧ (b = 2 * p ∨ b = 2 * p + 1)) → t.sampleAt ch b = s.sampleAt ch b
  pdef : ∀ ch b, t.pdefAt ch b = s.pdefAt ch b
  common : SameCommon s t

/-- The DC register at an address holds a value, and everything else reads as before. -/
structure DcStored (s t : State) (a : Nat) (v : Word) : Prop where
  held : t.dcAt a = v
  others : ∀ b, b ≠ a → t.dcAt b = s.dcAt b
  misc : ∀ b, t.miscAt b = s.miscAt b
  contexts : SameContexts s t

/-- The miscellaneous register at an address holds a value, and everything else reads as before. -/
structure MiscStored (s t : State) (a : Nat) (v : Word) : Prop where
  held : t.miscAt a = v
  others : ∀ b, b ≠ a → t.miscAt b = s.miscAt b
  dc : ∀ b, t.dcAt b = s.dcAt b
  contexts : SameContexts s t

/-- What a write of a value at an address of a space leaves. -/
def Stored : Space → Nat → Word → State → State → Prop
  | .pdef, a, v, s, t => PdefStored s t a v
  | .wave, a, v, s, t => ∀ p, p < s.profile.waveRamCapacity / 2 → a = waveRegAddr s.profile p → PairStored s t p v
  | .dc, a, v, s, t => DcStored s t a v
  | .misc, a, v, s, t => MiscStored s t a v

/-- What a write leaves is said by the readers of the state alone. -/
theorem Stored.of_sameReads {space : Space} {a : Nat} {v : Word} {s t u : State} (h : Stored space a v s t)
    (k : SameReads t u) : Stored space a v s u := by
  cases space with
  | pdef =>
    exact
      { held := fun ch hch => (k.contexts.pdef ch a).symm ▸ h.held ch hch
        others := fun ch b hb => (k.contexts.pdef ch b).trans (h.others ch b hb)
        wram := fun ch b => (k.contexts.wram ch b).trans (h.wram ch b)
        common := h.common.trans k.common }
  | wave =>
    refine fun p hp ha => ?_
    have hpair := h p hp ha
    exact
      { held := fun ch hch => by simpa only [k.contexts.wram] using hpair.held ch hch
        others := fun ch b hb => (k.contexts.wram ch b).trans (hpair.others ch b hb)
        pdef := fun ch b => (k.contexts.pdef ch b).trans (hpair.pdef ch b)
        common := hpair.common.trans k.common }
  | dc =>
    exact
      { held := (k.common.dc a).trans h.held
        others := fun b hb => (k.common.dc b).trans (h.others b hb)
        misc := fun b => (k.common.misc b).trans (h.misc b)
        contexts := h.contexts.trans k.contexts }
  | misc =>
    exact
      { held := (k.common.misc a).trans h.held
        others := fun b hb => (k.common.misc b).trans (h.others b hb)
        dc := fun b => (k.common.dc b).trans (h.dc b)
        contexts := h.contexts.trans k.contexts }

/-- A write that is allowed completes, and leaves its value in its space. -/
theorem storeAt_completes {s : State} {space : Space} {a : Nat} (h : WriteAllowed s.profile s.chsel space a)
    (v : Word) : ∃ t, storeAt space a v s = .ok t ∧ Stored space a v s t := by
  cases space with
  | pdef =>
    obtain ⟨chs, htargets⟩ := targets_ok (h.selected (.inl rfl))
    refine ⟨storePdef chs a v s, ?_, ?_⟩
    · simp only [storeAt, storeAtPdef, if_neg (h.pdef rfl).not_ge, htargets]
    · constructor
      case held =>
        intro ch hch
        rw [storePdef_pdefAt, if_pos ⟨(mem_targets htargets ch).2 hch, rfl⟩]
        exact registerHolds_keptBits _ _ _
      case others =>
        intro ch b hb
        rw [storePdef_pdefAt, if_neg fun h => hb ⟨(mem_targets htargets ch).1 h.1, h.2⟩]
      case wram => exact fun _ _ => rfl
      case common => exact ⟨fun _ => rfl, fun _ => rfl⟩
  | wave =>
    obtain ⟨chs, htargets⟩ := targets_ok (h.selected (.inr rfl))
    obtain ⟨p, hp, rfl⟩ := h.wave rfl
    refine ⟨storePair chs p (unpairWord s.profile v) s, ?_, fun q hq hpq => ?_⟩
    · simp only [storeAt, storeAtWave, pairAt_waveRegAddr hp, htargets]
    · obtain rfl : q = p := by
        have hpair := pairAt_waveRegAddr hq
        rw [← hpq, pairAt_waveRegAddr hp] at hpair
        exact (Option.some.inj hpair).symm
      constructor
      case held =>
        intro ch hch
        have hmem := (mem_targets htargets ch).2 hch
        rw [storePair_sampleAt, storePair_sampleAt, if_pos ⟨hmem, rfl⟩, if_neg (by omega), if_pos ⟨hmem, rfl⟩]
        exact ⟨rfl, rfl⟩
      case others =>
        intro ch b hb
        have hreached : ch ∈ chs → Reached s ch := (mem_targets htargets ch).1
        rw [storePair_sampleAt, if_neg fun h => hb ⟨hreached h.1, .inl h.2⟩,
          if_neg fun h => hb ⟨hreached h.1, .inr h.2⟩]
      case pdef => exact fun _ _ => rfl
      case common => exact ⟨fun _ => rfl, fun _ => rfl⟩
  | dc =>
    refine ⟨storeDc a v s, rfl, ?_⟩
    constructor
    case held => rw [storeDc_dcAt, if_pos rfl]
    case others => exact fun b hb => by rw [storeDc_dcAt, if_neg hb]
    case misc => exact fun _ => rfl
    case contexts => exact ⟨fun _ _ => rfl, fun _ _ => rfl⟩
  | misc =>
    refine ⟨storeMisc a v s, rfl, ?_⟩
    constructor
    case held => rw [storeMisc_miscAt, if_pos rfl]
    case others => exact fun b hb => by rw [storeMisc_miscAt, if_neg hb]
    case dc => exact fun _ => rfl
    case contexts => exact ⟨fun _ _ => rfl, fun _ _ => rfl⟩

/-- A write in a state that starts an operation is the write in the state before. -/
theorem storeAt_start {space : Space} {a : Nat} {v : Word} {s t : State} (h : storeAt space a v s = .ok t) :
    ∃ u, storeAt space a v s.start = .ok u ∧ SameReads t u := by
  obtain ⟨u, hu, hspaces⟩ := storeAt_congr (s := s) (t := s.start) rfl rfl ⟨rfl, rfl, rfl, rfl⟩ h
  obtain ⟨hprofile, -, -, -, -, hepoch, -⟩ := storeAt_keeps h
  obtain ⟨hprofile', -, -, -, -, hepoch', -⟩ := storeAt_keeps hu
  exact ⟨u, hu, sameReads_of_spaces hspaces (hepoch'.trans hepoch.symm) (hprofile'.trans hprofile.symm)⟩

/-! ### One exchange on the Link (R115 c) -/

/-- What a device command leaves alone before its frame is sent. -/
structure Unsent (s t : State) : Prop where
  host : SameHost s t
  cache : t.hostCache = s.hostCache
  draws : t.draws = s.draws
  response : t.response = .blank

theorem unsent_start (s : State) : Unsent s s.start := ⟨⟨rfl, rfl, rfl⟩, rfl, rfl, rfl⟩

theorem unsent_of_storeAt {space : Space} {a : Nat} {v : Word} {s t : State}
    (h : storeAt space a v s.start = .ok t) : Unsent s t := by
  obtain ⟨hprofile, hprogram, hpc, -, -, -, hdraws, hcache, hresponse⟩ := storeAt_keeps h
  exact ⟨⟨hprofile, hprogram, hpc⟩, hcache, hdraws, hresponse⟩

/-- A command that sends one frame and ends with a result has the device's error lines as its only flags. -/
theorem Unsent.exchanged {s t : State} (h : Unsent s t) (r : Result) (f : Frame) (lines : List Line) :
    Exchanged s ((exchange f lines t).succeed r) r f lines where
  host := ⟨h.host.profile, h.host.program, h.host.pc⟩
  cache := h.cache
  returns := ⟨rfl, rfl⟩
  flags w := by simp [h.response, Response.blank, State.deviceErrors, h.draws]
  link := by simp [OnLink, h.response, Response.blank]

/-- An exchange that starts an operation and ends it changes nothing of the block. -/
theorem sameBlock_exchange_start (s : State) (r : Result) (f : Frame) (lines : List Line) :
    SameBlock s ((exchange f lines s.start).succeed r) :=
  ⟨⟨fun _ _ => rfl, fun _ _ => rfl⟩, ⟨fun _ => rfl, fun _ => rfl⟩, rfl, rfl⟩

/-- Where the body of a write command completes, the command answers `done`. -/
theorem writeCommand_completes {i : Instr} {f : State → Except Refusal State} {s t : State}
    (hi : exec i s = runCommand (fun s => written (f s)) s) (h : f s.start = .ok t) :
    exec i s = .next (t.succeed .done) :=
  hi.trans (runCommand_of_ok (e := .done .done t) (by simp only [h, written]))

/-- Where the body of a read command completes, the command answers its word. -/
theorem readCommand_completes {i : Instr} {f : State → Except Refusal (Word × State)} {s t : State} {w : Word}
    (hi : exec i s = runCommand (fun s => readResult (f s)) s) (h : f s.start = .ok (w, t)) :
    exec i s = .next (t.succeed (.word w)) :=
  hi.trans (runCommand_of_ok (e := .done (.word w) t) (by simp only [h, readResult]))

/-! ### The write commands (R116 to R120, R139, R176 to R178) -/

theorem exec_commitInstr (space : Space) (a : Addr) (s : State) :
    exec (commitInstr space a) s = runCommand (fun s => written (devCommit space a s)) s := by
  cases space <;> rfl

theorem exec_uwriteInstr (space : Space) (w : Word48) (s : State) :
    exec (uwriteInstr space w) s = runCommand (fun s => written (devUwrite space w s)) s := by
  cases space <;> rfl

/-- A commit that is allowed writes what is staged, or garbage, and consumes it. -/
theorem commit_completes {s : State} {space : Space} {a : Addr} (hrev : s.profile.protoRev = .legacy)
    (hallowed : WriteAllowed s.profile s.chsel space a.toNat) :
    ∃ t v, exec (commitInstr space a) s = .next t ∧ (∀ u, s.staged = some u → v = u)
      ∧ Exchanged s t .done (frame1 s.profile (writeCmd space) a.toNat) []
      ∧ Stored space a.toNat v s t ∧ t.staged = none ∧ t.chsel = s.chsel := by
  obtain ⟨u, hstore, hstored⟩ := storeAt_completes hallowed s.committed
  obtain ⟨u', hstore', hreads⟩ := storeAt_start hstore
  have hunsent := unsent_of_storeAt hstore'
  obtain ⟨-, -, -, -, hchsel, -⟩ := storeAt_keeps hstore'
  have hbody : devCommit space a s.start
      = .ok (exchange (frame1 s.profile (writeCmd space) a.toNat) [] { u' with staged := none }) := by
    have hcommitted : s.start.committed = s.committed := rfl
    simp only [devCommit, start_profile, hrev, hcommitted, hstore']
  have hunstaged : Unsent s { u' with staged := none } := { hunsent with host := { hunsent.host with } }
  exact ⟨_, s.committed, writeCommand_completes (exec_commitInstr space a s) hbody,
    fun v hv => by simp only [State.committed, hv], hunstaged.exchanged _ _ _,
    hstored.of_sameReads (hreads.trans (sameReads_of_spaces ⟨rfl, rfl, rfl, rfl⟩ rfl rfl)), rfl, hchsel⟩

/-- A unified write that is allowed writes the value of its word, and neither reads nor writes what is staged. -/
theorem uwrite_completes {s : State} {space : Space} {w : Word48} (hrev : s.profile.protoRev = .unified)
    (hallowed : WriteAllowed s.profile s.chsel space (w.toNat / 2 ^ 32)) :
    ∃ t, exec (uwriteInstr space w) s = .next t
      ∧ Exchanged s t .done (frame1 s.profile (writeCmd space) w.toNat) []
      ∧ Stored space (w.toNat / 2 ^ 32) (BitVec.ofNat 32 w.toNat) s t ∧ t.staged = s.staged ∧ t.chsel = s.chsel := by
  obtain ⟨u, hstore, hstored⟩ := storeAt_completes hallowed (BitVec.ofNat 32 w.toNat)
  obtain ⟨u', hstore', hreads⟩ := storeAt_start hstore
  obtain ⟨-, -, -, hstaged, hchsel, -⟩ := storeAt_keeps hstore'
  have hbody : devUwrite space w s.start = .ok (exchange (frame1 s.profile (writeCmd space) w.toNat) [] u') := by
    simp only [devUwrite, start_profile, hrev, word48Address_toNat, word48Value_eq, hstore']
  exact ⟨_, writeCommand_completes (exec_uwriteInstr space w s) hbody, (unsent_of_storeAt hstore').exchanged _ _ _,
    hstored.of_sameReads (hreads.trans (sameReads_of_spaces ⟨rfl, rfl, rfl, rfl⟩ rfl rfl)), hstaged,
    hchsel⟩

theorem writeAllowed_pdef {P : Profile} {sel : Option Selection} {a : Nat} (hsel : sel ≠ none)
    (ha : a < 4 * P.nSlots) : WriteAllowed P sel .pdef a :=
  ⟨fun _ => hsel, fun _ => ha, nofun⟩

theorem writeAllowed_wave {P : Profile} {sel : Option Selection} {a p : Nat} (hsel : sel ≠ none)
    (hp : p < P.waveRamCapacity / 2) (ha : a = waveRegAddr P p) : WriteAllowed P sel .wave a :=
  ⟨fun _ => hsel, nofun, fun _ => ⟨p, hp, ha⟩⟩

theorem writeAllowed_dc (P : Profile) (sel : Option Selection) (a : Nat) : WriteAllowed P sel .dc a :=
  ⟨nofun, nofun, nofun⟩

theorem writeAllowed_misc (P : Profile) (sel : Option Selection) (a : Nat) : WriteAllowed P sel .misc a :=
  ⟨nofun, nofun, nofun⟩

/-! ### The read commands (R121 to R123) -/

/-- A read whose register is found answers it, with one data line, and changes nothing of the block. -/
theorem read_completes {i : Instr} {c : Cmd} {a : Addr} {x : State → Except Refusal Word} {s : State} {w : Word}
    (hi : exec i s = runCommand (fun s => readResult (answered c a s (x s))) s) (hx : x s.start = .ok w) :
    ∃ t, exec i s = .next t ∧ Exchanged s t (.word w) (frame1 s.profile c a.toNat) [dataLine [w.toNat]]
      ∧ SameBlock s t := by
  have hbody : answered c a s.start (x s.start)
      = .ok (w, exchange (frame1 s.profile c a.toNat) [dataLine [w.toNat]] s.start) := by
    simp only [hx, answered, start_profile]
  exact ⟨_, readCommand_completes hi hbody, (unsent_start s).exchanged _ _ _,
    sameBlock_exchange_start _ _ _ _⟩

theorem loadPdef_of_one {s : State} {c a : Nat} (hc : s.chsel = some (.one c)) (ha : a < 4 * s.profile.nSlots) :
    loadPdef a s = .ok (s.pdefAt c a) := by
  simp only [loadPdef, if_neg ha.not_ge, source_ok hc]

theorem loadWave_of_one {s : State} {c p : Nat} (hc : s.chsel = some (.one c))
    (hp : p < s.profile.waveRamCapacity / 2) :
    loadWave (waveRegAddr s.profile p) s
      = .ok (pairWord s.profile (s.sampleAt c (2 * p)) (s.sampleAt c (2 * p + 1))) := by
  simp only [loadWave, pairAt_waveRegAddr hp, source_ok hc]

/-- Under the invariant every sample has `SAMPLE_BITS` bits, the written and the unwritten ones (R32). -/
theorem sampleAt_le_smax {s : State} (h : Inv s) (ch a : Nat) : s.sampleAt ch a ≤ s.profile.smax := by
  suffices hlt : s.sampleAt ch a < 2 ^ s.profile.addrBits from Nat.le_pred_of_lt hlt
  rw [State.sampleAt]
  split
  next v hread => exact (h.wram _ (Cells.mem_of_read hread)).2.2
  next => exact Nat.mod_lt _ (Nat.two_pow_pos _)

theorem packpair_answers {s : State} {a b : Nat} (ha : a ≤ s.profile.smax) (hb : b ≤ s.profile.smax) :
    Answers (.packpair a b) s (.word (pairWord s.profile a b)) [] := by
  have hnone : [a, b].flatMap (sampleCheck s.profile) = [] := flatMap_sampleCheck_of_le (by simp [ha, hb])
  have hanswers := answers_of_checks (exec_packpair_checked a b s) (.inr hnone)
  rwa [hnone] at hanswers

theorem pairWord_toNat_evenLow {P : Profile} (hP : P.WF) (h : P.pairOrder = .evenLow) {a b : Nat} (ha : a ≤ P.smax)
    (hb : b ≤ P.smax) : (pairWord P a b).toNat = b * 2 ^ P.addrBits + a := by
  rw [pairWord, h]
  exact toNat_ofNat_fields hP.addrBits_le (lt_two_pow_of_le_smax ha) (lt_two_pow_of_le_smax hb)

theorem pairWord_toNat_evenHigh {P : Profile} (hP : P.WF) (h : P.pairOrder = .evenHigh) {a b : Nat} (ha : a ≤ P.smax)
    (hb : b ≤ P.smax) : (pairWord P a b).toNat = a * 2 ^ P.addrBits + b := by
  rw [pairWord, h]
  exact toNat_ofNat_fields hP.addrBits_le (lt_two_pow_of_le_smax hb) (lt_two_pow_of_le_smax ha)

/-- The bits above the two fields are zero (R122). -/
theorem pairWord_toNat_lt {P : Profile} (hP : P.WF) {a b : Nat} (ha : a ≤ P.smax) (hb : b ≤ P.smax) :
    (pairWord P a b).toNat < 2 ^ (2 * P.addrBits) := by
  have hfields {lo hi : Nat} (hlo : lo ≤ P.smax) (hhi : hi ≤ P.smax) :
      hi * 2 ^ P.addrBits + lo < 2 ^ (2 * P.addrBits) := by
    rw [two_mul, pow_add, Nat.mul_comm hi]
    exact Nat.mul_add_lt_mul_of_lt_of_lt (lt_two_pow_of_le_smax hhi) (lt_two_pow_of_le_smax hlo)
  cases h : P.pairOrder with
  | evenLow => exact pairWord_toNat_evenLow hP h ha hb ▸ hfields ha hb
  | evenHigh => exact pairWord_toNat_evenHigh hP h ha hb ▸ hfields hb ha

/-! ### Selection and queries (R124, R127, R129) -/

/-- A selection that its operand stands for is made, and nothing else is touched. -/
theorem devChsel_of_selects {s : State} {c : Nat} {sel : Selection} (h : selectionOf s.profile c = some sel) :
    devChsel c s = .ok (exchange (frame1 s.profile .chsel c) [] { s with chsel := some sel }) := by
  simp only [devChsel, h]

theorem selectionOf_channel {P : Profile} {c : Nat} (h : c < P.cMaxChannels) : selectionOf P c = some (.one c) :=
  if_pos h

theorem selectionOf_chAll {P : Profile} (h : P.cMaxChannels ≤ P.chAll) : selectionOf P P.chAll = some .all := by
  rw [selectionOf, if_neg h.not_gt, if_pos rfl]

/-- The lines that are kept of those the device emits are not error-marked (R65). -/
theorem isErrorLine_of_mem_freeLines {s : State} {l : Line} (h : l ∈ s.freeLines) : Config.isErrorLine l = false := by
  simpa using (List.mem_filter.1 h).2

/-- `ERRQ` has one mask for each kind, in order (R129). -/
theorem map_fst_errorMapping (s : State) : s.errorMapping.map Prod.fst = s.profile.errKinds := by
  rw [State.errorMapping, List.map_map]
  exact List.zipIdx_map_fst 0 s.profile.errKinds

theorem errq_completes (s : State) :
    ∃ t, exec .errq s = .next t
      ∧ Exchanged s t (.mapping s.errorMapping) [s.profile.cmd.errq] [] ∧ SameBlock s t :=
  ⟨_, rfl, (unsent_start s).exchanged _ _ _,
    sameBlock_exchange_start _ _ _ _⟩

end Sys2Proof.Machine

open Sys2Proof Sys2Proof.Machine

/-- Settles O39: an allowed commit, in the pulse-definition space. -/
theorem commitPdefWrites : Obligations.CommitPdefWrites := by
  intro s a hrev ha hsel
  obtain ⟨t, v, hx, hv, hexchanged, hstored, hstaged, hchsel⟩ := commit_completes hrev (writeAllowed_pdef hsel ha)
  exact ⟨t, v, hx, hv, hexchanged, hstored.held, hstored.others, hstored.wram, hstored.common, hstaged, hchsel⟩

/-- Settles O40: an allowed commit, in the waveform RAM. -/
theorem commitWaveWrites : Obligations.CommitWaveWrites := by
  intro s a p hrev hp ha hsel
  obtain ⟨t, v, hx, hv, hexchanged, hstored, hstaged, hchsel⟩ := commit_completes hrev (writeAllowed_wave hsel hp ha)
  obtain ⟨held, others, pdef, common⟩ := hstored p hp ha
  exact ⟨t, v, hx, hv, hexchanged, held, others, pdef, common, hstaged, hchsel⟩

/-- Settles O41: a commit to a common space is allowed at every address, whatever is selected. -/
theorem commitCommonWrites : Obligations.CommitCommonWrites := by
  intro s a hrev
  constructor
  · obtain ⟨t, v, hx, hv, hexchanged, hstored, hstaged, hchsel⟩ :=
      commit_completes hrev (writeAllowed_dc _ _ a.toNat)
    exact ⟨t, v, hx, hv, hexchanged, hstored.held, hstored.others, hstored.misc, hstored.contexts, hstaged, hchsel⟩
  · obtain ⟨t, v, hx, hv, hexchanged, hstored, hstaged, hchsel⟩ :=
      commit_completes hrev (writeAllowed_misc _ _ a.toNat)
    exact ⟨t, v, hx, hv, hexchanged, hstored.held, hstored.others, hstored.dc, hstored.contexts, hstaged, hchsel⟩

/-- Settles O42: an allowed unified write, in the spaces of the channels. -/
theorem uwriteContexts : Obligations.UwriteContexts := by
  rintro s w a v hrev hsel rfl rfl
  constructor
  · intro ha
    obtain ⟨t, hx, hexchanged, hstored, hstaged, hchsel⟩ := uwrite_completes hrev (writeAllowed_pdef hsel ha)
    exact ⟨t, hx, hexchanged, hstored.held, hstored.others, hstored.wram, hstored.common, hstaged, hchsel⟩
  · intro p hp ha
    obtain ⟨t, hx, hexchanged, hstored, hstaged, hchsel⟩ := uwrite_completes hrev (writeAllowed_wave hsel hp ha)
    obtain ⟨held, others, pdef, common⟩ := hstored p hp ha
    exact ⟨t, hx, hexchanged, held, others, pdef, common, hstaged, hchsel⟩

/-- Settles O43: the frames are the encodings of the two commands, and each is an allowed unified write. -/
theorem uwriteCommon : Obligations.UwriteCommon := by
  refine ⟨fun P w hP hrev => ⟨?dcFrame, ?miscFrame⟩, fun s w hrev => ⟨?dc, ?misc⟩⟩
  case dcFrame => exact decodeInvertsEncode P hP (.uwriteDc w) (decide_eq_true hrev)
  case miscFrame => exact decodeInvertsEncode P hP (.uwriteMisc w) (decide_eq_true hrev)
  case dc =>
    obtain ⟨t, hx, hexchanged, hstored, hstaged, hchsel⟩ := uwrite_completes hrev (writeAllowed_dc _ _ _)
    exact ⟨t, hx, hexchanged, hstored.held, hstored.others, hstored.misc, hstored.contexts, hstaged, hchsel⟩
  case misc =>
    obtain ⟨t, hx, hexchanged, hstored, hstaged, hchsel⟩ := uwrite_completes hrev (writeAllowed_misc _ _ _)
    exact ⟨t, hx, hexchanged, hstored.held, hstored.others, hstored.dc, hstored.contexts, hstaged, hchsel⟩

/-- Settles O44: the register is found, and answered. -/
theorem readRegistersReturn : Obligations.ReadRegistersReturn := by
  refine fun s a => ⟨fun c hc ha => ?pdef, ?misc⟩
  case pdef => exact read_completes (exec_readPdef a s) (loadPdef_of_one (s := s.start) hc ha)
  case misc => exact read_completes (x := fun s => .ok (s.miscAt a.toNat)) (exec_readMisc a s) rfl

/-- Settles O45: the pair is found, its two samples fit by the invariant, and so the word packs them without a flag. -/
theorem readWaveReturns : Obligations.ReadWaveReturns := by
  intro s a c p hinv hc hp ha
  have hfirst := sampleAt_le_smax hinv c (2 * p)
  have hsecond := sampleAt_le_smax hinv c (2 * p + 1)
  have hload : loadWave a.toNat s.start = _ := ha ▸ loadWave_of_one (s := s.start) hc hp
  obtain ⟨t, hx, hexchanged, hblock⟩ := read_completes (exec_readWave a s) hload
  exact ⟨t, _, hx, fun hlow => pairWord_toNat_evenLow hinv.profile hlow hfirst hsecond,
    fun hhigh => pairWord_toNat_evenHigh hinv.profile hhigh hfirst hsecond,
    pairWord_toNat_lt hinv.profile hfirst hsecond, packpair_answers hfirst hsecond,
    unpairWord_pairWord hinv.profile hfirst hsecond, hexchanged, hblock⟩

/-- Settles O47: the frame is the encoding of a well-formed selection, or of a well-formed illegal frame. -/
theorem chselSelects : Obligations.ChselSelects := by
  refine ⟨fun P c hP hc => ?legal, fun P c hP hc hall => ?illegal, fun s c sel hsel => ?selects⟩
  case legal => exact decodeInvertsEncode P hP (.chsel c) (decide_eq_true hc)
  case illegal =>
    refine decodeInvertsEncode P hP (.illegalFrame (dec c) P.cmd.chsel) (illegalFrame_wf_iff.2 ?_)
    refine ⟨dec_isDigit c, isDigit_byteOf hP .chsel, ?_⟩
    have hcommand : commandOf P P.cmd.chsel = some .chsel := commandOf_byteOf hP .chsel
    simp [frameLegal, hcommand, digitsFit, takesOperand, operandInRange, hc, hall]
  case selects =>
    have hselects : selectionOf s.profile c = some sel := by
      obtain ⟨hlt, rfl⟩ | ⟨hge, rfl, rfl⟩ := hsel
      · exact selectionOf_channel hlt
      · exact selectionOf_chAll hge
    have hunsent : Unsent s { s.start with chsel := some sel } := ⟨⟨rfl, rfl, rfl⟩, rfl, rfl, rfl⟩
    exact ⟨_, writeCommand_completes (exec_chsel c s) (devChsel_of_selects (s := s.start) hselects),
      hunsent.exchanged _ _ _, rfl, rfl, ⟨fun _ _ => rfl, fun _ _ => rfl⟩, ⟨fun _ => rfl, fun _ => rfl⟩⟩

/-- Settles O49: each query is one exchange and no change of the block. -/
theorem queriesComplete : Obligations.QueriesComplete := by
  refine fun s => ⟨⟨_, s.freeLines, rfl, (unsent_start s).exchanged _ _ _, ?block, ?plain⟩, ?errq⟩
  case block => exact sameBlock_exchange_start _ _ _ _
  case plain => exact fun l => isErrorLine_of_mem_freeLines
  case errq =>
    obtain ⟨t, hx, hexchanged, hblock⟩ := errq_completes s
    exact ⟨t, _, hx, hexchanged, hblock, map_fst_errorMapping s⟩

/-- Settles O14: the frames are the encodings of the two commands, and their meaning is a refusal in every state. -/
theorem namedOnlyCommandsRefused : Obligations.NamedOnlyCommandsRefused :=
  ⟨fun P m hP => decodeInvertsEncode P hP (.chen m) rfl, fun P hP => decodeInvertsEncode P hP .regdump rfl,
    exec_chen, exec_regdump⟩

/-- Settles O38: the value is staged and its frame exchanged. -/
theorem stageHoldsValue : Obligations.StageHoldsValue := by
  intro s v hrev
  have hbody : devStage v s.start
      = .ok (exchange (frame1 s.profile .dataset v.toNat) [] { s.start with staged := some v }) := by
    simp only [devStage, start_profile, hrev]
  have hunsent : Unsent s { s.start with staged := some v } := ⟨⟨rfl, rfl, rfl⟩, rfl, rfl, rfl⟩
  exact ⟨_, writeCommand_completes (exec_stage v s) hbody, hunsent.exchanged _ _ _, rfl, rfl,
    ⟨fun _ _ => rfl, fun _ _ => rfl⟩, ⟨fun _ => rfl, fun _ => rfl⟩⟩
end

section
/-! PROOFS. The register writes of the composite sequences (R130, R135, R136): the flags and the host's side of an
operation under way, one register write in either revision, and the two sequences that clear a space. -/

namespace Sys2Proof

open Machine

/-! ### The operation's own flags (R24) -/

theorem ownFlags_start (s : State) : OwnFlags s.start [] := fun _ _ => Iff.rfl

/-- The device's error lines are not the operation's own flags. -/
theorem OwnFlags.after_deviceErrors {s t : State} {ws : List Warning} (h : OwnFlags s ws)
    (ht : ∃ ls : List Line, t.response.warnings = s.response.warnings ++ ls.map .deviceError) : OwnFlags t ws := by
  obtain ⟨ls, hls⟩ := ht
  intro w hw
  have hline : w ∉ ls.map Warning.deviceError := by
    rw [List.mem_map]
    rintro ⟨line, -, rfl⟩
    exact hw line rfl
  rw [hls, List.mem_append, or_iff_left hline, h w hw]

theorem OwnFlags.warn {s : State} {ws : List Warning} (h : OwnFlags s ws) (vs : List Warning) :
    OwnFlags (s.warn vs) (ws ++ vs) := by
  intro w hw
  rw [warn_response_warnings, List.mem_append, List.mem_append, h w hw]

theorem OwnFlags.succeed {s : State} {ws : List Warning} (h : OwnFlags s ws) (r : Result) :
    OwnFlags (s.succeed r) ws :=
  fun w hw => (mem_flagSet _ w).trans (h w hw)

theorem SameHost.trans {s t u : State} (h : SameHost s t) (k : SameHost t u) : SameHost s u :=
  ⟨k.profile.trans h.profile, k.program.trans h.program, k.pc.trans h.pc⟩

end Sys2Proof

namespace Sys2Proof.Machine

open Sys2Proof

/-! ### An operation under way -/

/-- A state that an operation started in `s` has come to: the host's side is as it was, and the operation's own flags so
far are these. -/
structure Underway (s t : State) (ws : List Warning) : Prop where
  host : SameHost s t
  flags : OwnFlags t ws

theorem underway_start (s : State) : Underway s s.start [] := ⟨⟨rfl, rfl, rfl⟩, ownFlags_start s⟩

theorem Underway.ran {s t u : State} {ws : List Warning} {fs : List Frame} (h : Underway s t ws) (k : Ran t u fs) :
    Underway s u ws :=
  ⟨h.host.trans k.host, h.flags.after_deviceErrors k.flags⟩

theorem Underway.asked {s t u : State} {ws : List Warning} {n : Nat} (h : Underway s t ws) (k : Asked t u n) :
    Underway s u ws :=
  ⟨h.host.trans k.host, h.flags.after_deviceErrors k.flags⟩

theorem Underway.warn {s t : State} {ws : List Warning} (h : Underway s t ws) (vs : List Warning) :
    Underway s (t.warn vs) (ws ++ vs) :=
  ⟨h.host.trans ⟨rfl, rfl, rfl⟩, h.flags.warn vs⟩

theorem Underway.succeed {s t : State} {ws : List Warning} (h : Underway s t ws) (r : Result) :
    Underway s (t.succeed r) ws :=
  ⟨h.host.trans ⟨rfl, rfl, rfl⟩, h.flags.succeed r⟩

/-! ### One register write (R130) -/

/-- The `REGWRITE.x` of a space (R130). -/
def regwriteInstr : Space → Nat → Nat → Instr
  | .pdef => .regwritePdef
  | .wave => .regwriteWave
  | .dc => .regwriteDc
  | .misc => .regwriteMisc

theorem exec_regwriteInstr (space : Space) (a v : Nat) (s : State) :
    exec (regwriteInstr space a v) s = runCommand (fun s => written (regWrite space a v s)) s := by
  cases space <;> rfl

/-- A run of register writes that starts an operation has sent its own frames and no others. -/
theorem Ran.onLink {s t : State} {fs : List Frame} (h : Ran s t fs) (hsent : s.response.sent = [])
    (hlines : t.response.lines = []) (r : Result) : OnLink (t.succeed r) fs [] :=
  ⟨by rw [succeed_response_sent, h.sent, hsent, List.nil_append], hlines⟩

/-- `REGWRITE.x` where its write is allowed: the frames of `ENCW` and the value in its space, in either revision. -/
theorem regwrite_completes {s : State} {space : Space} {a : Nat}
    (hallowed : WriteAllowed s.profile s.chsel space (a % 2 ^ 16)) (v : Nat) :
    ∃ t fs, exec (regwriteInstr space a v) s = .next t
      ∧ encodeWrite s.profile a v (s.profile.cmd.byteOf (writeCmd space)) = .ok fs ∧ OnLink t fs []
      ∧ Returns t .done ∧ OwnFlags t [] ∧ SameHost s t ∧ t.hostCache = s.hostCache
      ∧ Stored space (a % 2 ^ 16) (BitVec.ofNat 32 v) s t ∧ StagedAfterWrite s t ∧ t.chsel = s.chsel := by
  obtain ⟨u, hstore, hstored⟩ := storeAt_completes hallowed (BitVec.ofNat 32 v)
  obtain ⟨u', hstore', hreads⟩ := storeAt_start hstore
  obtain ⟨hprofile, -, -, -, -, hepoch, -⟩ := storeAt_keeps hstore'
  obtain ⟨t, hbody, hran, hspaces, hstaged, hlines⟩ := regWrite_spec hstore'
  have hdone := ((underway_start s).ran hran).succeed .done
  have hkept : SameReads u' (t.succeed .done) :=
    sameReads_of_spaces ⟨hspaces.pdef, hspaces.wram, hspaces.dcreg, hspaces.misc⟩ (hran.epoch.trans hepoch.symm)
      (hran.host.profile.trans hprofile.symm)
  exact ⟨_, _, writeCommand_completes (exec_regwriteInstr space a v s) hbody, encodeWrite_writeCmd _ _ _ _,
    hran.onLink rfl hlines _, ⟨rfl, rfl⟩, hdone.flags, hdone.host, hran.cache,
    hstored.of_sameReads (hreads.trans hkept), hstaged, hran.chsel⟩

/-! ### Clearing (R135, R136) -/

theorem keptBits_zero (P : Profile) (a : Nat) : keptBits P a 0 = 0 := by
  simp [keptBits]

/-- A slot whose four registers are 0 has only zero fields. -/
theorem slotBlank_of_zero {s : State} {ch e : Nat} (h : ∀ k, k < 4 → s.pdefAt ch (4 * e + k) = 0) :
    SlotBlank s ch e := by
  have h0 := h 0 (by decide)
  simp only [Nat.add_zero] at h0
  simp [SlotBlank, h0, h 1 (by decide), h 2 (by decide), h 3 (by decide)]

theorem unpairWord_zero (P : Profile) : unpairWord P 0 = (0, 0) := by
  cases h : P.pairOrder with
  | evenLow => simp [unpairWord_evenLow h, field]
  | evenHigh => simp [unpairWord_evenHigh h, field]

/-- A sample is the first or the second of its pair. -/
theorem sampleAt_of_pair {s : State} {ch p x y a : Nat}
    (h : (s.sampleAt ch (2 * p), s.sampleAt ch (2 * p + 1)) = (x, y)) (ha : a / 2 = p) :
    s.sampleAt ch a = if a % 2 = 0 then x else y := by
  obtain ⟨rfl, rfl⟩ := Prod.mk.inj h
  split
  · congr 1; omega
  · congr 1; omega

theorem map_fst_range_map {α : Type} (n : Nat) (v : Nat → α) :
    ((List.range n).map fun a => (a, v a)).map Prod.fst = List.range n := by
  simp [Function.comp_def]

end Sys2Proof.Machine

open Sys2Proof Sys2Proof.Machine

/-- Settles O50: an allowed register write in each of the four spaces. -/
theorem regwriteNetEffect : Obligations.RegwriteNetEffect := by
  refine fun s a v _ => ⟨fun ha hsel => ?pdef, fun p hp ha hsel => ?wave, ?dc, ?misc⟩
  case pdef =>
    obtain ⟨t, fs, hx, hframes, hlink, hreturns, hflags, hhost, hcache, hstored, hstaged, hchsel⟩ :=
      regwrite_completes (writeAllowed_pdef hsel ha) v
    exact ⟨t, fs, hx, hframes, hlink, hreturns, hflags, hhost, hcache, hstored.held, hstored.others, hstored.wram,
      hstored.common, hstaged, hchsel⟩
  case wave =>
    obtain ⟨t, fs, hx, hframes, hlink, hreturns, hflags, hhost, hcache, hstored, hstaged, hchsel⟩ :=
      regwrite_completes (writeAllowed_wave hsel hp ha) v
    obtain ⟨held, others, pdef, common⟩ := hstored p hp ha
    exact ⟨t, fs, hx, hframes, hlink, hreturns, hflags, hhost, hcache, held, others, pdef, common, hstaged, hchsel⟩
  case dc =>
    obtain ⟨t, fs, hx, hframes, hlink, hreturns, hflags, hhost, hcache, hstored, hstaged, hchsel⟩ :=
      regwrite_completes (writeAllowed_dc s.profile s.chsel (a % 2 ^ 16)) v
    exact ⟨t, fs, hx, hframes, hlink, hreturns, hflags, hhost, hcache, hstored.held, hstored.others, hstored.misc,
      hstored.contexts, hstaged, hchsel⟩
  case misc =>
    obtain ⟨t, fs, hx, hframes, hlink, hreturns, hflags, hhost, hcache, hstored, hstaged, hchsel⟩ :=
      regwrite_completes (writeAllowed_misc s.profile s.chsel (a % 2 ^ 16)) v
    exact ⟨t, fs, hx, hframes, hlink, hreturns, hflags, hhost, hcache, hstored.held, hstored.others, hstored.dc,
      hstored.contexts, hstaged, hchsel⟩

/-- Settles O58: the register writes of each sequence are to pairwise distinct registers, and each writes 0. -/
theorem clearsZero : Obligations.ClearsZero := by
  refine fun s hP hsel => ⟨?clearpdef, ?clearwave⟩
  case clearpdef =>
    obtain ⟨t, hbody, hran, hwram, hdc, hmisc, hheld, hothers, hstaged, hnone, hlines⟩ :=
      regWrites_pdef (s := s.start) (ws := clearPdefWrites s.profile) hP hsel
        (by simp [clearPdefWrites]) (by rw [clearPdefWrites, map_fst_range_map]; exact List.nodup_range)
    have hdone := ((underway_start s).ran hran).succeed .done
    have hzero : ∀ ch a, Reached s ch → a < 4 * s.profile.nSlots → (t.succeed .done).pdefAt ch a = 0 :=
      fun ch a hch ha => (hheld ch hch (a, 0) (by simpa [clearPdefWrites] using ha)).trans (keptBits_zero _ _)
    refine ⟨_, writeCommand_completes (exec_clearpdef s) hbody, ⟨rfl, rfl⟩, hdone.flags, hdone.host, hran.cache,
      hzero, ?slots, ?others, sampleAt_congr hwram hran.epoch hran.host.profile,
      ⟨dcAt_congr hdc hran.epoch, miscAt_congr hmisc hran.epoch⟩, hran.chsel, ?staged, ?noSlots,
      hran.onLink rfl hlines _⟩
    case slots => exact fun ch e hch he => slotBlank_of_zero fun k hk => hzero ch _ hch (by omega)
    case others =>
      exact fun ch a ha => hothers ch a (by rw [clearPdefWrites, map_fst_range_map, List.mem_range]; exact ha)
    case staged => exact fun hn => hstaged (clearPdefWrites_ne_nil hn)
    case noSlots =>
      intro hn
      have hsame : t = s.start := hnone (by simp [clearPdefWrites, hn])
      exact (congrArg State.staged hsame :)
  case clearwave =>
    have heven := hP.capacity_even
    have hwrites : clearWaveWrites s.profile
        = ((List.range (s.profile.waveRamCapacity / 2)).map fun p => (p, 0#32)).map
            fun pw => (waveRegAddr s.profile pw.1, pw.2) := by
      rw [List.map_map]; rfl
    obtain ⟨t, hbody, hran, hpdef, hdc, hmisc, hheld, hothers, hstaged, hnone, hlines⟩ :=
      regWrites_wave (s := s.start) (ws := (List.range (s.profile.waveRamCapacity / 2)).map fun p => (p, 0#32))
        hP hsel (by simp) (by rw [map_fst_range_map]; exact List.nodup_range)
    simp only [start_profile, ← hwrites] at hbody hran
    have hdone := ((underway_start s).ran hran).succeed .done
    refine ⟨_, writeCommand_completes (exec_clearwave s) hbody, ⟨rfl, rfl⟩, hdone.flags, hdone.host, hran.cache,
      ?zero, ?others, pdefAt_congr hpdef hran.epoch,
      ⟨dcAt_congr hdc hran.epoch, miscAt_congr hmisc hran.epoch⟩, hran.chsel, ?staged, ?noSamples,
      hran.onLink rfl hlines _⟩
    case zero =>
      intro ch a hch ha
      have hpair := hheld ch hch (a / 2, 0) (by simp; omega)
      rw [unpairWord_zero] at hpair
      simpa using sampleAt_of_pair hpair rfl
    case others =>
      refine fun ch a ha => hothers ch a ?_
      rw [map_fst_range_map, List.mem_range]
      exact fun h => ha ⟨h.1, by omega⟩
    case staged =>
      refine fun hn => hstaged ?_
      simp only [ne_eq, List.map_eq_nil_iff, List.range_eq_nil]
      omega
    case noSamples =>
      intro hn
      have hsame : t = s.start := hnone (by simp [hn])
      exact (congrArg State.staged hsame :)
end

section
/-! PROOFS. The waveform tables (R133, R134): the words of a table at their registers, the selection of a broadcast,
the samples of the pairs read, and the round trip of a table through one channel. -/

namespace Sys2Proof

open Machine

/-! ### The response is no part of the block -/

theorem SameBlock.of_start {s t : State} (h : SameBlock s.start t) : SameBlock s t :=
  ⟨⟨h.contexts.pdef, h.contexts.wram⟩, ⟨h.common.dc, h.common.misc⟩, h.staged, h.chsel⟩

theorem SameBlock.warn {s t : State} (h : SameBlock s t) (ws : List Warning) : SameBlock s (t.warn ws) :=
  ⟨⟨h.contexts.pdef, h.contexts.wram⟩, ⟨h.common.dc, h.common.misc⟩, h.staged, h.chsel⟩

theorem SameBlock.succeed {s t : State} (h : SameBlock s t) (r : Result) : SameBlock s (t.succeed r) :=
  ⟨⟨h.contexts.pdef, h.contexts.wram⟩, ⟨h.common.dc, h.common.misc⟩, h.staged, h.chsel⟩

end Sys2Proof

namespace Sys2Proof.Machine

open Sys2Proof

/-! ### The words of a table and their registers (R95, R133) -/

/-- What `WRITEWAVE` writes where `STRICT` lets its table pass: a flag for each sample above `SMAX`, and the words. -/
theorem tableWords_of_fits {P : Profile} {start : Nat} {samples : List Nat} (heven : start % 2 = 0)
    (hcap : start + (samples.length + samples.length % 2) ≤ P.waveRamCapacity)
    (hfit : P.strict = false ∨ ∀ v ∈ samples, v ≤ P.smax) :
    tableWords P start samples
      = .ok (pairWords P samples, (samples.flatMap (sampleCheck P)).map Violation.flag) := by
  rw [tableWords_eq_packTable heven hcap, packTable_eq,
    strictness_of_lax_or_nil (hfit.imp_right flatMap_sampleCheck_of_le)]
  rfl

/-- Under `STRICT` the first sample above `SMAX` is the error. -/
theorem tableWords_of_first {P : Profile} {start v : Nat} {before after : List Nat} (heven : start % 2 = 0)
    (hcap : start + ((before ++ v :: after).length + (before ++ v :: after).length % 2) ≤ P.waveRamCapacity)
    (hstrict : P.strict = true) (hbefore : ∀ u ∈ before, u ≤ P.smax) (hv : P.smax < v) :
    tableWords P start (before ++ v :: after) = .error (.outOfRange .sample v P.smax) := by
  rw [tableWords_eq_packTable heven hcap, packTable_eq, flatMap_sampleCheck_of_first hbefore hv, hstrict]
  rfl

/-- The pairs of a table, each with its word. -/
def tablePairs (P : Profile) (start : Nat) (samples : List Nat) : List (Nat × Word) :=
  (List.range ((samples.length + samples.length % 2) / 2)).map fun k =>
    (start / 2 + k, pairWord P (samples.getD (2 * k) 0) (samples.getD (2 * k + 1) 0))

theorem tableWrites_pairWords (P : Profile) (start : Nat) (samples : List Nat) :
    tableWrites P start (pairWords P samples)
      = (tablePairs P start samples).map fun pw => (waveRegAddr P pw.1, pw.2) := by
  refine List.ext_getElem (by simp [tableWrites, tablePairs, length_pairWords]; omega) fun k hk _ => ?_
  have hword : k < (pairWords P samples).length := by simpa [tableWrites] using hk
  have hk' := getElem?_pairWords P hword
  rw [List.getElem?_eq_getElem hword, Option.some.injEq] at hk'
  simp [tableWrites, tablePairs, hk']

theorem map_fst_tablePairs (P : Profile) (start : Nat) (samples : List Nat) :
    (tablePairs P start samples).map Prod.fst
      = (List.range ((samples.length + samples.length % 2) / 2)).map (start / 2 + ·) := by
  simp [tablePairs, Function.comp_def]

theorem nodup_map_fst_tablePairs (P : Profile) (start : Nat) (samples : List Nat) :
    ((tablePairs P start samples).map Prod.fst).Nodup := by
  rw [map_fst_tablePairs]
  exact List.nodup_range.map fun _ _ h => Nat.add_left_cancel h

theorem mem_map_fst_tablePairs {P : Profile} {start p : Nat} {samples : List Nat} :
    p ∈ (tablePairs P start samples).map Prod.fst
      ↔ start / 2 ≤ p ∧ p < start / 2 + (samples.length + samples.length % 2) / 2 := by
  simp only [map_fst_tablePairs, List.mem_map, List.mem_range]
  constructor
  · rintro ⟨k, hk, rfl⟩
    omega
  · rintro ⟨hge, hlt⟩
    exact ⟨p - start / 2, by omega, by omega⟩

/-! ### Selecting and recording (R133, R138) -/

/-- The state after a selection was sent and recorded by the host. -/
def selectedAs (c : Nat) (sel : Selection) (s : State) : State :=
  { exchange (frame1 s.profile .chsel c) [] { s with chsel := some sel } with hostCache := some sel }

theorem selectAndRecord_of_selects {s : State} {c : Nat} {sel : Selection} (h : selectionOf s.profile c = some sel) :
    selectAndRecord c s = .ok (selectedAs c sel s) := by
  simp only [selectAndRecord, devChsel_of_selects h]
  rfl

/-- A selection adds no flag of the operation's own. -/
theorem Underway.selectedAs {s t : State} {ws : List Warning} (h : Underway s t ws) (c : Nat) (sel : Selection) :
    Underway s (selectedAs c sel t) ws :=
  ⟨h.host.trans ⟨rfl, rfl, rfl⟩, h.flags.after_deviceErrors ⟨_, rfl⟩⟩

theorem sameReads_start (s : State) : SameReads s s.start :=
  ⟨⟨fun _ _ => rfl, fun _ _ => rfl⟩, ⟨fun _ => rfl, fun _ => rfl⟩⟩

theorem sameReads_selectedAs (c : Nat) (sel : Selection) (s : State) : SameReads s (selectedAs c sel s) :=
  ⟨⟨fun _ _ => rfl, fun _ _ => rfl⟩, ⟨fun _ => rfl, fun _ => rfl⟩⟩

/-- What `WRITEWAVE` has done before its register writes: all channels are selected and recorded where it broadcasts,
and nothing else has changed. -/
structure BroadcastDone (all : Bool) (s t : State) : Prop where
  underway : Underway s t []
  reads : SameReads s t
  staged : t.staged = s.staged
  selected : all = true → t.chsel = some .all ∧ t.hostCache = some .all
  kept : all = false → t.chsel = s.chsel ∧ t.hostCache = s.hostCache
  sent : t.response.sent = if all then [frame1 s.profile .chsel s.profile.chAll] else []
  lines : t.response.lines = []

theorem broadcast_completes {s : State} (hP : s.profile.WF) (all : Bool) :
    ∃ t, broadcast all s.start = .ok t ∧ BroadcastDone all s t := by
  cases all with
  | true =>
    have hselects := selectionOf_chAll hP.chAll_ge
    exact ⟨_, selectAndRecord_of_selects (s := s.start) hselects, (underway_start s).selectedAs _ _,
      (sameReads_start s).trans (sameReads_selectedAs _ _ _), rfl, fun _ => ⟨rfl, rfl⟩, nofun, rfl, rfl⟩
  | false =>
    exact ⟨s.start, rfl, underway_start s, sameReads_start s, rfl, nofun, fun _ => ⟨rfl, rfl⟩, rfl, rfl⟩

/-! ### The samples of the pairs read (R134) -/

theorem flatMap_range_pairs {α : Type} (f : Nat → α) (n : Nat) :
    ((List.range n).flatMap fun k => [f (2 * k), f (2 * k + 1)]) = (List.range (2 * n)).map f := by
  induction n with
  | zero => rfl
  | succ n ih => simp [List.range_succ, ih, Nat.mul_succ]

/-- A stretch of an initial segment. -/
theorem take_drop_map_range {α : Type} (f : Nat → α) {d l m : Nat} (h : d + l ≤ m) :
    (((List.range m).map f).drop d).take l = (List.range l).map fun i => f (d + i) := by
  refine List.ext_getElem (by simp; omega) fun k hk _ => ?_
  simp

/-- Under the invariant the pairs read are the samples of the channel, in order. -/
theorem readPairs_samples {s : State} {c p n : Nat} (h : Inv s) (hc : s.chsel = some (.one c))
    (hn : p + n ≤ s.profile.waveRamCapacity / 2) :
    ∃ t, readPairs n p s.start = .ok ((List.range (2 * n)).map fun i => s.sampleAt c (2 * p + i), t)
      ∧ Asked s.start t n := by
  obtain ⟨t, hread, hasked⟩ := readPairs_spec (s := s.start) h.profile hc hn
  refine ⟨t, hread.trans ?_, hasked⟩
  rw [← flatMap_range_pairs fun i => s.sampleAt c (2 * p + i)]
  have hfit (a : Nat) := sampleAt_le_smax h c a
  simp only [start_profile, start_sampleAt, unpairWord_pairWord h.profile (hfit _) (hfit _), Nat.mul_add,
    Nat.add_assoc]

/-- A read of nothing sends nothing (R134). -/
theorem readwave_zero_answers {s : State} {start : Nat} (h : start ≤ s.profile.waveRamCapacity) :
    Answers (.readwave start 0) s (.naturals []) [] := by
  have hbody : readTable start 0 s.start = .ok (.done (.naturals []) s.start) := by
    rw [readTable, if_neg (by simpa using h), if_pos rfl]
  obtain ⟨t, ht, hanswers⟩ := runFunction_ok s (.naturals []) []
  exact ⟨t, ((exec_readwave start 0 s).trans (runCommand_of_ok hbody)).trans ht, hanswers⟩

/-! ### A composite sequence that ends with an error (R154) -/

/-- An error in a composite sequence leaves the block as it was and nothing in what is sent, whatever it has probed. -/
theorem fails_of_probed {i : Instr} {f : State → Except Refusal Ending} {s t : State} {e : OpError}
    (hi : exec i s = runCommand f s) (h : f s.start = .ok (.failed e (s.start.probedTo t))) : Fails i s e :=
  ⟨_, hi.trans (runCommand_of_ok h), ⟨rfl, rfl, rfl⟩, ⟨⟨rfl, rfl, rfl⟩,
    ⟨⟨fun _ _ => rfl, fun _ _ => rfl⟩, ⟨fun _ => rfl, fun _ => rfl⟩, rfl, rfl⟩, rfl, ⟨rfl, rfl⟩⟩⟩

/-- A check of a composite sequence that fails before anything is sent. -/
theorem fails_of_check {i : Instr} {f : State → Except Refusal Ending} {s : State} {e : OpError}
    (hi : exec i s = runCommand f s) (h : f s.start = .ok (.failed e s.start)) : Fails i s e :=
  fails_of_probed (t := s.start) hi h

end Sys2Proof.Machine

open Sys2Proof Sys2Proof.Machine

/-- Settles O54: the words of the table, written one by one after the broadcast; or the first failing sample, before
it. -/
theorem writewaveStores : Obligations.WritewaveStores := by
  refine ⟨?stores, ?fails⟩
  case fails =>
    rintro s start before after v all _ hstrict heven rfl hcap hbefore hv
    refine fails_of_check (exec_writewave _ _ _ s) ?_
    rw [writeTable, start_profile, tableWords_of_first heven hcap hstrict hbefore hv]
  case stores =>
    rintro s start samples all _ hP rfl heven hcap hfit hsel
    obtain ⟨b, hbroadcast, hdone⟩ := broadcast_completes hP all
    have hprofile := hdone.underway.host.profile
    have hselected : b.chsel ≠ none := by
      cases all with
      | true => simp [(hdone.selected rfl).1]
      | false => simpa [(hdone.kept rfl).1] using hsel
    have hin : ∀ pw ∈ tablePairs s.profile start samples, pw.1 < s.profile.waveRamCapacity / 2 := by
      intro pw hpw
      have hpair := mem_map_fst_tablePairs.1 (List.mem_map_of_mem hpw)
      have hcapEven := hP.capacity_even
      omega
    obtain ⟨t, hwrites, hran, hpdef, hdc, hmisc, hheld, hothers, hstaged, hnone, hlines⟩ :=
      regWrites_wave (s := b.warn ((samples.flatMap (sampleCheck s.profile)).map Violation.flag))
        (ws := tablePairs s.profile start samples) (hprofile ▸ hP) hselected (hprofile ▸ hin)
        (nodup_map_fst_tablePairs _ _ _)
    rw [warn_profile, hprofile, ← tableWrites_pairWords] at hwrites hran
    have hbody : writeTable start samples all s.start = .ok (.done .done t) := by
      simp only [writeTable, start_profile, tableWords_of_fits heven hcap hfit, hbroadcast, hwrites, written]
    have hx : exec (.writewave start samples all) s = .next (t.succeed .done) :=
      (exec_writewave start samples all s).trans (runCommand_of_ok hbody)
    have hend := ((hdone.underway.warn _).ran hran).succeed .done
    have hreached (ch : Nat) : Reached t ch ↔ Reached b ch := reached_congr hran.host.profile hran.chsel ch
    refine ⟨_, hx, ⟨rfl, rfl⟩, hend.host,
      fun x hx => (hend.flags x hx).trans mem_flags_sampleCheck, ?selected, ?kept, ⟨?sent, hlines.trans hdone.lines⟩,
      ?held, ?others, fun ch a => ?pdef, ?common, ?staged, ?empty⟩
    case selected => exact fun hall => (hdone.selected hall).imp hran.chsel.trans hran.cache.trans
    case kept => exact fun hall => (hdone.kept hall).imp hran.chsel.trans hran.cache.trans
    case sent =>
      rw [succeed_response_sent, hran.sent, warn_response_sent, hdone.sent, tableWrites_pairWords, tablePairs,
        List.map_map]
      rfl
    case held =>
      intro ch k hch hk
      have hmem : (start / 2 + k, pairWord s.profile (samples.getD (2 * k) 0) (samples.getD (2 * k + 1) 0))
          ∈ tablePairs s.profile start samples := List.mem_map_of_mem (List.mem_range.2 (by omega))
      have hpair := hheld ch ((hreached ch).1 hch) _ hmem
      rwa [warn_profile, hprofile, show 2 * (start / 2 + k) = start + 2 * k by omega] at hpair
    case others =>
      intro ch a ha
      refine (hothers ch a fun h => ha ⟨(hreached ch).2 h.1, ?_⟩).trans (hdone.reads.contexts.wram ch a)
      have hpair := mem_map_fst_tablePairs.1 h.2
      omega
    case pdef => exact (pdefAt_congr hpdef hran.epoch ch a).trans (hdone.reads.contexts.pdef ch a)
    case common =>
      exact hdone.reads.common.trans ⟨dcAt_congr hdc hran.epoch, miscAt_congr hmisc hran.epoch⟩
    case staged =>
      intro hne
      have hpairs : tablePairs s.profile start samples ≠ [] := by
        have hlen := List.length_pos_of_ne_nil hne
        simp only [tablePairs, ne_eq, List.map_eq_nil_iff, List.range_eq_nil]
        omega
      obtain ⟨hlegacy, hunified⟩ := hstaged hpairs
      rw [warn_profile, hprofile] at hlegacy hunified
      exact ⟨hlegacy, fun hrev => (hunified hrev).trans hdone.staged⟩
    case empty =>
      rintro rfl
      have hsame : t = _ := hnone rfl
      exact (congrArg State.staged hsame :).trans hdone.staged

/-- Settles O56: the pairs that cover the range, less what they read before and after it. -/
theorem readwaveReturns : Obligations.ReadwaveReturns := by
  intro s start length hinv hcap
  refine ⟨?nothing, fun c hc => ?reads⟩
  case nothing => rintro rfl; exact readwave_zero_answers hcap
  case reads =>
    rcases Nat.eq_zero_or_pos length with rfl | hpos
    · obtain ⟨t, hx, hreturns, hflags, hframe⟩ := readwave_zero_answers hcap
      exact ⟨t, hx, hreturns, fun w _ => hflags w, hframe.host, hframe.block, hframe.cache⟩
    · have hcapEven := hinv.profile.capacity_even
      obtain ⟨t, hread, hasked⟩ := readPairs_samples (n := pairsCovering start length) (p := start / 2) hinv hc (by
        rw [pairsCovering]; omega)
      have hsamples : (((List.range (2 * pairsCovering start length)).map fun i =>
          s.sampleAt c (2 * (start / 2) + i)).drop (start % 2)).take length
            = (List.range length).map fun i => s.sampleAt c (start + i) := by
        rw [take_drop_map_range _ (by rw [pairsCovering]; omega)]
        refine List.map_congr_left fun i _ => ?_
        rw [← Nat.add_assoc, Nat.div_add_mod]
      have hbody : readTable start length s.start
          = .ok (.done (.naturals ((List.range length).map fun i => s.sampleAt c (start + i))) t) := by
        rw [readTable, start_profile, if_neg hcap.not_gt, if_neg hpos.ne']
        simp only [hread, hsamples]
      have hend := (underway_start s).asked hasked
      exact ⟨_, (exec_readwave start length s).trans (runCommand_of_ok hbody), ⟨rfl, rfl⟩, (hend.succeed _).flags,
        (hend.succeed _).host, hasked.block.of_start.succeed _, hasked.cache⟩

/-- Settles O57: what is read are the samples of the channel; each pair of them is the fields of the word written, and
those are the pair of the table, whose samples fit. -/
theorem tableReadsBack : Obligations.TableReadsBack := by
  intro s c start samples hinv hc heven hcap hfit
  obtain ⟨t, hwrite, -, hhost, -, -, hkept, -, hstored, -⟩ :=
    writewaveStores.1 s start samples false _ hinv.profile rfl heven hcap (.inr hfit) (.inr (by simp [hc]))
  have hc' : t.chsel = some (.one c) := (hkept rfl).1.trans hc
  obtain ⟨-, hreads⟩ := readwaveReturns t start samples.length (inv_exec hinv hwrite) (by rw [hhost.profile]; omega)
  obtain ⟨u, hread, hreturns, -⟩ := hreads c hc'
  refine ⟨t, u, hwrite, hread, ?_⟩
  have hsample (i : Nat) (hi : i < samples.length) : t.sampleAt c (start + i) = samples[i] := by
    have hle (j : Nat) : samples.getD j 0 ≤ s.profile.smax := by
      rcases Nat.lt_or_ge j samples.length with hj | hj
      · simpa [hj] using hfit _ (List.getElem_mem hj)
      · simp [hj]
    have hpair := hstored c (i / 2) (.inl hc') (by omega)
    rw [unpairWord_pairWord hinv.profile (hle _) (hle _)] at hpair
    obtain ⟨hfirst, hsecond⟩ := Prod.mk.inj hpair
    rw [← List.getD_eq_getElem samples 0 hi]
    have hparity : i = 2 * (i / 2) ∨ i = 2 * (i / 2) + 1 := by omega
    generalize i / 2 = k at hfirst hsecond hparity
    obtain rfl | rfl := hparity
    · exact hfirst
    · exact hsecond
  have htable : (List.range samples.length).map (fun i => t.sampleAt c (start + i)) = samples :=
    List.ext_getElem (by simp) fun i _ hi => by simpa using hsample i hi
  rwa [htable] at hreturns
end

section
/-! PROOFS. The pulse-definition slots (R131, R132): when the scan takes a slot for empty, what it finds, and a
definition written to the slot chosen. -/

namespace Sys2Proof.Machine

open Sys2Proof

/-! ### The emptiness test (R132) -/

theorem waveSum_nonneg (w : WaveOperand) : 0 ≤ waveSum w := by
  cases w <;> simp only [waveSum] <;> positivity

/-- The `wave` field of a register is zero exactly when each of its parts is, by the field mode. -/
theorem waveSum_decodeWave_eq_zero_iff (mode : WaveFieldMode) (r1 : Word) :
    waveSum (decodeWave mode r1) = 0 ↔
      (mode = .waveId → r1.toNat = 0)
        ∧ (mode = .addrLen → r1.toNat % 2 ^ 12 = 0 ∧ r1.toNat / 2 ^ 16 % 2 ^ 12 = 0) := by
  cases mode with
  | waveId => simp [decodeWave, waveSum]
  | addrLen =>
    have hsum (a l : Nat) : waveSum (.addrLen a l) = 0 ↔ a = 0 ∧ l = 0 := by
      rw [waveSum, ← Nat.cast_add, Nat.cast_eq_zero, Nat.add_eq_zero_iff]
    simp [decodeWave, hsum, field_eq]

/-- No field is negative, so the sum is zero exactly when every field is (R132). -/
theorem fieldSum_decodeFields_eq_zero_iff (P : Profile) (r0 r1 r2 r3 : Word) :
    fieldSum (decodeFields P r0 r1 r2 r3) = 0 ↔
      field r0 0 24 = 0 ∧ waveSum (decodeWave P.waveFieldMode r1) = 0
        ∧ field r2 16 16 = 0 ∧ field r2 0 16 = 0 ∧ field r3 0 17 = 0 := by
  have hcast (n : Nat) : (n : Rat) = 0 ↔ n = 0 := Nat.cast_eq_zero
  have hscaled (n k : Nat) : (n : Rat) / 2 ^ k = 0 ↔ n = 0 := by simp
  have hwave := waveSum_nonneg (decodeWave P.waveFieldMode r1)
  rw [← hcast (field r0 0 24), ← hscaled (field r2 16 16) (P.gainBits - 1), ← hscaled (field r2 0 16) P.fracBits,
    ← hcast (field r3 0 17)]
  have hstart : (0 : Rat) ≤ field r0 0 24 := Nat.cast_nonneg _
  have hgain : (0 : Rat) ≤ field r2 16 16 / 2 ^ (P.gainBits - 1) := by positivity
  have htime : (0 : Rat) ≤ field r2 0 16 / 2 ^ P.fracBits := by positivity
  have hsustain : (0 : Rat) ≤ field r3 0 17 := Nat.cast_nonneg _
  simp only [fieldSum, decodeFields]
  constructor
  · intro hsum
    refine ⟨?_, ?_, ?_, ?_, ?_⟩ <;> linarith
  · rintro ⟨h1, h2, h3, h4, h5⟩
    linarith

/-- The scan takes a quadruple for empty exactly when its fields sum to 0: the sentinel is one such quadruple. -/
theorem scanEmpty_iff (P : Profile) (r0 r1 r2 r3 : Word) :
    scanEmpty P r0 r1 r2 r3 = true ↔ fieldSum (decodeFields P r0 r1 r2 r3) = 0 := by
  by_cases hraw : rawEmpty r0 r1 r2 r3 = true
  · obtain ⟨rfl, rfl, rfl, rfl⟩ := rawEmpty_eq_true_iff.1 hraw
    refine iff_of_true ?_ ((fieldSum_decodeFields_eq_zero_iff P 0 0 0 0).2 ?_)
    · simp only [scanEmpty, decodeQuad, hraw, if_true]
    · simp [field, waveSum_decodeWave_eq_zero_iff]
  · simp only [scanEmpty, decodeQuad, hraw, Bool.false_eq_true, if_false, decide_eq_true_eq]

/-- R132: the scan takes a slot for empty exactly when every decoded field of it is zero. -/
theorem slotEmpty_iff (s : State) (c e : Nat) : slotEmpty s c e = true ↔ SlotBlank s c e := by
  have hscale : (s.pdefAt c (4 * e + 2)).toNat / 2 ^ 16 = 0 ∧ (s.pdefAt c (4 * e + 2)).toNat % 2 ^ 16 = 0
      ↔ (s.pdefAt c (4 * e + 2)).toNat = 0 := by omega
  rw [slotEmpty, scanEmpty_iff, fieldSum_decodeFields_eq_zero_iff, waveSum_decodeWave_eq_zero_iff, field_upper_half,
    field_low, field_low, field_low, SlotBlank, ← hscale]
  simp only [and_assoc]

theorem not_slotBlank_of_slotEmpty {s : State} {c e : Nat} (h : slotEmpty s c e = false) : ¬ SlotBlank s c e := by
  rw [← slotEmpty_iff, h]
  exact Bool.false_ne_true

/-! ### The slot found (R132, R167) -/

/-- The slot that the scan of a channel ends with, and the flags of its own: the first empty one, or slot 0 with
`SLOT_WRAP` where there is none. -/
def SlotFound (s : State) (c e : Nat) (ws : List Warning) : Prop :=
  (e < s.profile.nSlots ∧ SlotBlank s c e ∧ (∀ e', e' < e → ¬ SlotBlank s c e') ∧ ws = [])
    ∨ (e = 0 ∧ (∀ e', e' < s.profile.nSlots → ¬ SlotBlank s c e') ∧ ws = [.slotWrap])

/-- The number of reads of a scan: four for each slot visited. -/
def scanReads (s : State) (e : Nat) (ws : List Warning) : Nat :=
  if ws = [] then 4 * (e + 1) else 4 * s.profile.nSlots

/-- There is at most one slot to find. -/
theorem SlotFound.unique {s : State} {c e e' : Nat} {ws ws' : List Warning} (h : SlotFound s c e ws)
    (h' : SlotFound s c e' ws') : e = e' ∧ ws = ws' := by
  obtain ⟨hlt, hblank, hfirst, rfl⟩ | ⟨rfl, hnone, rfl⟩ := h <;>
    obtain ⟨hlt', hblank', hfirst', rfl⟩ | ⟨rfl, hnone', rfl⟩ := h'
  · rcases Nat.lt_trichotomy e e' with hee | hee | hee
    · exact absurd hblank (hfirst' e hee)
    · exact ⟨hee, rfl⟩
    · exact absurd hblank' (hfirst e' hee)
  · exact absurd hblank (hnone' e hlt)
  · exact absurd hblank' (hnone e' hlt')
  · exact ⟨rfl, rfl⟩

theorem warn_nil (s : State) : s.warn [] = s := by
  simp [State.warn]

/-- With one channel selected the scan ends with the slot to find, after its reads. -/
theorem findSlot_completes {s : State} {c : Nat} (hP : s.profile.WF) (hc : s.chsel = some (.one c)) :
    ∃ e ws u, findSlot s.start = .ok (e, u.warn ws) ∧ SlotFound s c e ws ∧ Asked s.start u (scanReads s e ws) := by
  obtain ⟨slot, u, hscan, ⟨k, hk, rfl, hempty, hbefore, hasked⟩ | ⟨rfl, hnone, hasked⟩⟩ :=
    scanSlots_spec (s := s.start) (n := s.profile.nSlots) (e := 0) hP hc (Nat.le_of_eq (Nat.zero_add _))
  · simp only [Nat.zero_add] at hscan hempty hbefore
    refine ⟨k, [], u, ?_, .inl ⟨hk, (slotEmpty_iff s c k).1 hempty, fun j hj => ?_, rfl⟩, hasked⟩
    · simp only [findSlot, start_profile, hscan, warn_nil]
    · exact not_slotBlank_of_slotEmpty (hbefore j hj)
  · simp only [Nat.zero_add] at hnone
    refine ⟨0, [.slotWrap], u, ?_, .inr ⟨rfl, fun j hj => not_slotBlank_of_slotEmpty (hnone j hj), rfl⟩, hasked⟩
    simp only [findSlot, start_profile, hscan]

theorem exec_findslot_of_found {s u : State} {e : Nat} (h : findSlot s.start = .ok (e, u)) :
    exec .findslot s = .next (u.succeed (.slot e)) :=
  (exec_findslot s).trans (runCommand_of_ok (e := .done (.slot e) u) (by simp only [h]))

/-! ### The slot chosen (R131) -/

/-- The slot that `WRITEPDEF` takes, and the flags of its scan: the one given, or the one to find. -/
def SlotChosen (s : State) (entry : Option Nat) (e : Nat) (ws : List Warning) : Prop :=
  entry = some e ∧ ws = [] ∨ entry = none ∧ ∃ c, s.chsel = some (.one c) ∧ SlotFound s c e ws

/-- Choosing a slot changes nothing of the block, and sends nothing where the entry is given. -/
theorem chooseSlot_completes {s : State} {entry : Option Nat} {e : Nat} {ws : List Warning} (hP : s.profile.WF)
    (h : SlotChosen s entry e ws) :
    ∃ u, chooseSlot entry s.start = .ok (e, u) ∧ Underway s u ws ∧ SameBlock s u ∧ u.hostCache = s.hostCache
      ∧ (entry = some e → u = s.start) := by
  obtain ⟨rfl, rfl⟩ | ⟨rfl, c, hc, hfound⟩ := h
  · exact ⟨s.start, rfl, underway_start s, (Asked.refl s.start).block.of_start, rfl, fun _ => rfl⟩
  · obtain ⟨e', ws', u, hfind, hfound', hasked⟩ := findSlot_completes hP hc
    obtain ⟨rfl, rfl⟩ := hfound.unique hfound'
    exact ⟨u.warn ws, hfind, ((underway_start s).asked hasked).warn ws, hasked.block.of_start.warn ws, hasked.cache,
      nofun⟩

/-- Where an entry is given, or one channel is selected, there is a slot to choose, and it exists. -/
theorem exists_slotChosen {s : State} {entry : Option Nat} (hP : s.profile.WF)
    (hslot : entry.getD 0 < s.profile.nSlots) (hsel : entry = none → ∃ c, s.chsel = some (.one c)) :
    ∃ e ws, SlotChosen s entry e ws ∧ e < s.profile.nSlots := by
  cases entry with
  | some e => exact ⟨e, [], .inl ⟨rfl, rfl⟩, hslot⟩
  | none =>
    obtain ⟨c, hc⟩ := hsel rfl
    obtain ⟨e, ws, u, -, hfound, -⟩ := findSlot_completes hP hc
    refine ⟨e, ws, .inr ⟨rfl, c, hc, hfound⟩, ?_⟩
    obtain ⟨hlt, -⟩ | ⟨rfl, -⟩ := hfound
    · exact hlt
    · exact hslot

/-! ### The registers written (R102, R131) -/

theorem map_fst_slotWrites (P : Profile) (e st : Nat) (w : WaveOperand) (gain tf : Rat) (su : Nat) :
    (slotWrites P e st w gain tf su).map Prod.fst = [4 * e, 4 * e + 1, 4 * e + 2, 4 * e + 3] := rfl

theorem mem_slot_iff {e a : Nat} : a ∈ [4 * e, 4 * e + 1, 4 * e + 2, 4 * e + 3] ↔ 4 * e ≤ a ∧ a < 4 * e + 4 := by
  simp only [List.mem_cons, List.not_mem_nil, or_false]
  omega

theorem nodup_slot (e : Nat) : [4 * e, 4 * e + 1, 4 * e + 2, 4 * e + 3].Nodup := by
  simp

/-- Where the operands do not encode at the slot chosen, `WRITEPDEF` fails as `ENCPDEF` does, its reads aside. -/
theorem writepdef_fails {s : State} {w : WaveOperand} {st : Nat} {gain tf : Rat} {su e : Nat} {entry : Option Nat}
    {ws : List Warning} {err : OpError} (hP : s.profile.WF) (hchosen : SlotChosen s entry e ws)
    (henc : encodePdef s.profile e st w gain tf su = .error err) : Fails (.writepdef w st gain tf su entry) s err := by
  obtain ⟨u, hchoose, -⟩ := chooseSlot_completes hP hchosen
  exact fails_of_probed (exec_writepdef w st gain tf su entry s) (writePdef_error hchoose henc)

/-- The frames that the scan sends stand in the probes of the `WRITEPDEF` that fails after it (R131). -/
theorem writepdef_probes_findslot {s : State} {w : WaveOperand} {st : Nat} {gain tf : Rat} {su e : Nat} {u : State}
    {err : OpError} (hfind : findSlot s.start = .ok (e, u))
    (henc : encodePdef s.profile e st w gain tf su = .error err) :
    ∃ t v, exec (.writepdef w st gain tf su none) s = .next t ∧ exec .findslot s = .next v
      ∧ t.response.probes = v.response.sent :=
  ⟨_, _, (exec_writepdef w st gain tf su none s).trans (runCommand_of_ok (writePdef_error hfind henc)),
    exec_findslot_of_found hfind, rfl⟩

/-- An `ENCPDEF` that fails has not encoded its operands. -/
theorem encodePdef_error_of_fails {s : State} {e st : Nat} {w : WaveOperand} {gain tf : Rat} {su : Nat} {err : OpError}
    (h : Fails (.encpdef e st w gain tf su) s err) : encodePdef s.profile e st w gain tf su = .error err := by
  obtain ⟨t, hx, ⟨-, herr, -⟩, -⟩ := h
  cases henc : encodePdef s.profile e st w gain tf su with
  | ok x =>
    rw [exec_encpdef, henc] at hx
    cases hx
    cases herr
  | error err' =>
    rw [exec_encpdef, henc] at hx
    cases hx
    exact congrArg _ (Option.some.inj herr)

/-- The wrong form of `wave` at an existing slot (R145). -/
theorem encodePdef_of_wrong_wave {P : Profile} {e : Nat} {w : WaveOperand} (he : e < P.nSlots)
    (hw : waveFits P.waveFieldMode w = false) (st : Nat) (gain tf : Rat) (su : Nat) :
    encodePdef P e st w gain tf su = .error (.badOperand .wave (.wave w) (.waveForm P.waveFieldMode)) := by
  simp only [encodePdef, if_neg he.not_ge, hw, if_true]

/-- The substitution of the start time does not decide whether it fits its field (R6, R101). -/
theorem substStart_le_iff {P : Profile} (hP : P.WF) (e st : Nat) : substStart P e st ≤ 0xFFFFFF ↔ st ≤ 0xFFFFFF := by
  have hmin := hP.startMin_le
  rw [substStart]
  split <;> omega

/-- Under `STRICT` a failed check at an existing slot is the error, whichever it is (R143). -/
theorem encodePdef_of_failed_check {P : Profile} {e : Nat} {w : WaveOperand} (he : e < P.nSlots)
    (hw : waveFits P.waveFieldMode w = true) (hstrict : P.strict = true) {st : Nat} {gain tf : Rat} {su : Nat}
    (hchecks : pdefChecks P e st w gain tf su ≠ []) :
    ∃ field value bound, encodePdef P e st w gain tf su = .error (.outOfRange field value bound) := by
  obtain ⟨v, rest, hv⟩ := List.exists_cons_of_ne_nil hchecks
  refine ⟨v.field, v.value, v.bound, ?_⟩
  rw [encodePdef_eq he hw, hstrict, hv]
  rfl

end Sys2Proof.Machine

open Sys2Proof Sys2Proof.Machine

/-- Settles O52: the slot that the scan ends with, which it takes for empty exactly when its decoded fields are zero. -/
theorem findslotFirstEmpty : Obligations.FindslotFirstEmpty := by
  intro s c hP hc
  obtain ⟨e, ws, u, hfind, hfound, hasked⟩ := findSlot_completes hP hc
  have hend := (((underway_start s).asked hasked).warn ws).succeed (.slot e)
  have hsent : u.response.sent.length = scanReads s e ws := hasked.sent.trans (Nat.zero_add _)
  refine ⟨_, e, exec_findslot_of_found hfind, ⟨rfl, rfl⟩, hend.host, (hasked.block.of_start.warn ws).succeed _,
    hasked.cache, ?_⟩
  obtain ⟨hlt, hblank, hfirst, rfl⟩ | ⟨rfl, hnone, rfl⟩ := hfound
  · exact .inl ⟨hlt, hblank, hfirst, hend.flags, hsent⟩
  · exact .inr ⟨rfl, hnone, hend.flags, hsent⟩

/-- Settles O53: the slot chosen, the definition encoded for it, and its four registers written; or the error of the
encoding, which is the same at every existing slot. -/
theorem writepdefFillsSlot : Obligations.WritepdefFillsSlot := by
  refine ⟨?fills, fun s w st gain tf su hP => ⟨fun e err hfails => ?encodingFails, fun entry hslot hsel => ?existing⟩⟩
  case fills =>
    intro s w st gain tf su entry e writes scanFlags flags hP hsel hchosen henc
    obtain ⟨u, hchoose, hunderway, hblock, hcache, hgiven⟩ := chooseSlot_completes hP hchosen
    obtain ⟨he, -, -, rfl⟩ := encodePdef_ok henc
    have hprofile : u.profile = s.profile := hunderway.host.profile
    have hslotWrites := map_fst_slotWrites s.profile e st w gain tf su
    have hin : ∀ aw ∈ slotWrites s.profile e st w gain tf su, aw.1 < 4 * s.profile.nSlots := by
      intro aw haw
      have hmem := mem_slot_iff.1 (hslotWrites ▸ List.mem_map_of_mem haw)
      omega
    obtain ⟨t, hwrites, hran, hwram, hdc, hmisc, hheld, hothers, hstaged, -, hlines⟩ :=
      regWrites_pdef (s := u.warn flags) (ws := slotWrites s.profile e st w gain tf su) (hprofile ▸ hP)
        (hblock.chsel ▸ hsel) (hprofile ▸ hin) (hslotWrites ▸ nodup_slot e)
    rw [warn_profile, hprofile] at hran hheld
    have hreached (ch : Nat) : Reached (u.warn flags) ch ↔ Reached s ch := reached_congr hprofile hblock.chsel ch
    have hbody : writePdef w st gain tf su entry s.start = .ok (.done (.slot e) t) := by
      simp only [writePdef, hchoose, start_profile, henc, hwrites]
    have hx : exec (.writepdef w st gain tf su entry) s = .next (t.succeed (.slot e)) :=
      (exec_writepdef w st gain tf su entry s).trans (runCommand_of_ok hbody)
    have hend := ((hunderway.warn flags).ran hran).succeed (.slot e)
    refine ⟨_, hx, ⟨rfl, rfl⟩, hend.flags, hend.host, hran.cache.trans hcache, hslotWrites, ?held, ?others,
      fun ch a => ?wram, ?common, ?staged, hran.chsel.trans hblock.chsel, ?link⟩
    case held =>
      exact fun ch hch av hav => (hheld ch ((hreached ch).2 hch) av hav).trans (encodePdef_kept henc av hav)
    case others =>
      refine fun ch a ha => (hothers ch a fun h => ha ⟨(hreached ch).1 h.1, ?_⟩).trans (hblock.contexts.pdef ch a)
      exact mem_slot_iff.1 (hslotWrites ▸ h.2)
    case wram => exact (sampleAt_congr hwram hran.epoch hran.host.profile ch a).trans (hblock.contexts.wram ch a)
    case common =>
      exact SameCommon.trans hblock.common ⟨dcAt_congr hdc hran.epoch, miscAt_congr hmisc hran.epoch⟩
    case staged =>
      obtain ⟨hlegacy, hunified⟩ := hstaged (List.cons_ne_nil _ _)
      rw [warn_profile, hprofile] at hlegacy hunified
      exact ⟨hlegacy, fun hrev => (hunified hrev).trans hblock.staged⟩
    case link =>
      intro hentry
      obtain rfl := hgiven hentry
      exact hran.onLink rfl hlines _
  case encodingFails =>
    have henc := encodePdef_error_of_fails hfails
    refine ⟨writepdef_fails hP (.inl ⟨rfl, rfl⟩) henc, fun he ⟨c, hc⟩ => ?_⟩
    obtain ⟨e', ws, hchosen, he'⟩ := exists_slotChosen (entry := none) hP (Nat.zero_lt_of_lt he) fun _ => ⟨c, hc⟩
    have henc' := encodePdef_error_slot hP he he' henc
    obtain ⟨u, hfind, -⟩ := chooseSlot_completes hP hchosen
    exact ⟨writepdef_fails hP hchosen henc', writepdef_probes_findslot hfind henc'⟩
  case existing =>
    obtain ⟨e, ws, hchosen, he⟩ := exists_slotChosen hP hslot hsel
    refine ⟨fun hwave => writepdef_fails hP hchosen (encodePdef_of_wrong_wave he hwave st gain tf su),
      fun hwave hstrict hunfit => ?_⟩
    have hchecks : pdefChecks s.profile e st w gain tf su ≠ [] := by
      rw [ne_eq, pdefChecks_eq_nil_iff, substStart_le_iff hP, waveChecks_eq_nil_iff]
      simpa only [and_assoc] using hunfit
    obtain ⟨field, value, bound, henc⟩ := encodePdef_of_failed_check he hwave hstrict hchecks
    exact ⟨field, value, bound, writepdef_fails hP hchosen henc⟩
end

section
/-! PROOFS. The channel errors read (R129, R137) and the selection of a channel (R138): their results, and the table of
the errors that each operation may end with (R140). -/

namespace Sys2Proof.Machine

open Sys2Proof

/-! ### The errors of each operation (R140, R154) -/

/-- The codes of the errors that an operation may end with (R140 to R149). -/
def errorCodes : Instr → List Nat
  | .evalpoly .. | .pshape .. | .v2dac .. | .encw .. | .deccherr .. | .readerrs => [9]
  | .packpair .. | .packtable .. | .mkwaveid .. => [7]
  | .encpdef .. | .writepdef .. => [5, 7, 9]
  | .illegalFn .. => [10]
  | .selectch .. => [4]
  | .writewave .. => [5, 6, 7]
  | .readwave .. => [5]
  | _ => []

/-- The error of a value, if it is one, has one of these codes. -/
def ErrorIn {α : Type} (codes : List Nat) (x : Except OpError α) : Prop := ∀ e, x = .error e → e.code ∈ codes

theorem errorIn_ok {α : Type} (codes : List Nat) (x : α) : ErrorIn codes (.ok x) := nofun

theorem errorIn_error {α : Type} {codes : List Nat} {e : OpError} (h : e.code ∈ codes) :
    ErrorIn codes (.error e : Except OpError α) := by
  rintro _ ⟨⟩
  exact h

theorem ErrorIn.mono {α : Type} {codes codes' : List Nat} {x : Except OpError α} (h : ErrorIn codes x)
    (hsub : codes ⊆ codes') : ErrorIn codes' x := fun e he => hsub (h e he)

theorem ErrorIn.map {α β : Type} {codes : List Nat} {x : Except OpError α} (h : ErrorIn codes x) (f : α → β) :
    ErrorIn codes (x.map f) := by
  cases x with
  | ok a => exact errorIn_ok _ _
  | error e => exact errorIn_error (h e rfl)

/-- Range checks end with `OutOfRange` (R143). -/
theorem strictness_errorIn (strict : Bool) (vs : List Violation) : ErrorIn [7] (strictness strict vs) := by
  cases strict with
  | false => exact errorIn_ok _ _
  | true =>
    cases vs with
    | nil => exact errorIn_ok _ _
    | cons v vs => exact errorIn_error (by simp [OpError.code])

theorem encodePdef_errorIn (P : Profile) (e st : Nat) (w : WaveOperand) (gain tf : Rat) (su : Nat) :
    ErrorIn [5, 7, 9] (encodePdef P e st w gain tf su) := by
  rcases Nat.lt_or_ge e P.nSlots with he | he
  · cases hw : waveFits P.waveFieldMode w with
    | false => rw [encodePdef_of_wrong_wave he hw]; exact errorIn_error (by simp [OpError.code])
    | true => rw [encodePdef_eq he hw]; exact ((strictness_errorIn _ _).map _).mono (by simp)
  · rw [encodePdef, if_pos he]; exact errorIn_error (by simp [OpError.code])

theorem encodeWrite_errorIn (P : Profile) (a v : Nat) (b : Byte) : ErrorIn [9] (encodeWrite P a v b) := by
  rw [encodeWrite]
  split
  · cases P.protoRev <;> exact errorIn_ok _ _
  · exact errorIn_error (by simp [OpError.code])

theorem decodeErrors_errorIn (P : Profile) (m : List (String × Word)) : ErrorIn [9] (decodeErrors P m) := by
  induction m with
  | nil => exact errorIn_ok _ _
  | cons km m ih =>
    rw [decodeErrors]
    split
    · exact errorIn_error (by simp [OpError.code])
    · split
      next e he => exact errorIn_error (ih e he)
      next => exact errorIn_ok _ _

theorem evalPoly_errorIn (P : Profile) (d : Nat) (x : Rat) (cs : List Rat) : ErrorIn [9] (evalPoly P d x cs) := by
  rw [evalPoly]
  split
  · exact errorIn_error (by simp [OpError.code])
  · exact errorIn_ok _ _

theorem pulseShape_errorIn (P : Profile) (now start rise : Int) (tf : Rat) (hold : Int) (gain : Rat) (cs : List Rat) :
    ErrorIn [9] (pulseShape P now start rise tf hold gain cs) := by
  simp only [pulseShape]
  split
  · exact errorIn_error (by simp [OpError.code])
  split
  · exact errorIn_error (by simp [OpError.code])
  split
  · exact errorIn_error (by simp [OpError.code])
  · exact errorIn_ok _ _

theorem voltageToDac_errorIn (P : Profile) (v ref : Rat) (m : RefMode) : ErrorIn [9] (voltageToDac P v ref m) := by
  rw [voltageToDac]
  split
  · exact errorIn_error (by simp [OpError.code])
  · exact errorIn_ok _ _

theorem tableWords_errorIn (P : Profile) (start : Nat) (samples : List Nat) :
    ErrorIn [5, 6, 7] (tableWords P start samples) := by
  rw [tableWords]
  split
  · exact errorIn_error (by simp [OpError.code])
  split
  · exact errorIn_error (by simp [OpError.code])
  · rw [packTable_eq]; exact ((strictness_errorIn _ _).map _).mono (by simp)

theorem channelOperand_errorIn (P : Profile) (c : ChannelArg) : ErrorIn [4] (channelOperand P c) := by
  cases c with
  | all => exact errorIn_ok _ _
  | channel c =>
    simp only [channelOperand]
    split
    · exact errorIn_ok _ _
    · exact errorIn_error (by simp [OpError.code])

/-- The error that an ending is, if it is one, has one of these codes. -/
def FailsIn (codes : List Nat) (x : Except Refusal Ending) : Prop := ∀ e s, x = .ok (.failed e s) → e.code ∈ codes

theorem failsIn_done (codes : List Nat) (r : Result) (s : State) : FailsIn codes (.ok (.done r s)) := by
  intro e u h
  cases h

theorem written_failsIn (x : Except Refusal State) : FailsIn [] (written x) := by
  intro e s h
  obtain ⟨t, -, ht⟩ := written_ok h
  cases ht

theorem readResult_failsIn (x : Except Refusal (Word × State)) : FailsIn [] (readResult x) := by
  intro e s h
  obtain ⟨w, t, -, ht⟩ := readResult_ok h
  cases ht

section

variable {codes : List Nat} {i : Instr} {s t : State} {e : OpError}

theorem function_errorCode {f : Except OpError (Result × List Warning)} (hx : exec i s = .next t)
    (he : t.response.error = some e) (hi : exec i s = runFunction f s) (hf : ErrorIn codes f) : e.code ∈ codes := by
  obtain ⟨r, ws, -, rfl⟩ | ⟨err, herr, rfl⟩ := runFunction_next (hi.symm.trans hx)
  · cases he
  · exact Option.some.inj he ▸ hf err herr

theorem command_errorCode {f : State → Except Refusal Ending} (hx : exec i s = .next t)
    (he : t.response.error = some e) (hi : exec i s = runCommand f s) (hf : FailsIn codes (f s.start)) :
    e.code ∈ codes := by
  obtain ⟨x, hend, rfl⟩ := runCommand_next (hi.symm.trans hx)
  cases x with
  | done r u => cases he
  | failed err u => exact Option.some.inj he ▸ hf err u hend

theorem writeCommand_errorCode {f : State → Except Refusal State} (hx : exec i s = .next t)
    (he : t.response.error = some e) (hi : exec i s = runCommand (fun s => written (f s)) s) : e.code ∈ [] :=
  command_errorCode hx he hi (written_failsIn _)

theorem readCommand_errorCode {f : State → Except Refusal (Word × State)} (hx : exec i s = .next t)
    (he : t.response.error = some e) (hi : exec i s = runCommand (fun s => readResult (f s)) s) : e.code ∈ [] :=
  command_errorCode hx he hi (readResult_failsIn _)

end

theorem selectChannel_failsIn (c : ChannelArg) (s : State) : FailsIn [4] (selectChannel c s) := by
  intro e u h
  rw [selectChannel] at h
  split at h
  next err herr => cases h; exact channelOperand_errorIn _ _ _ herr
  next => exact absurd (written_failsIn _ e u h) List.not_mem_nil

theorem writePdef_failsIn (w : WaveOperand) (st : Nat) (gain tf : Rat) (su : Nat) (entry : Option Nat) (s : State) :
    FailsIn [5, 7, 9] (writePdef w st gain tf su entry s) := by
  intro e u h
  obtain ⟨n, t, -, ⟨err, herr, hend⟩ | ⟨v, writes, ws, -, -, hend⟩⟩ := writePdef_ok h
  · cases hend; exact encodePdef_errorIn _ _ _ _ _ _ _ _ herr
  · cases hend

theorem writeTable_failsIn (start : Nat) (samples : List Nat) (all : Bool) (s : State) :
    FailsIn [5, 6, 7] (writeTable start samples all s) := by
  intro e u h
  rw [writeTable] at h
  split at h
  next err herr => cases h; exact tableWords_errorIn _ _ _ _ herr
  next =>
    split at h
    · cases h
    · exact absurd (written_failsIn _ e u h) List.not_mem_nil

theorem readTable_failsIn (start length : Nat) (s : State) : FailsIn [5] (readTable start length s) := by
  intro e u h
  rw [readTable] at h
  split at h
  · cases h; simp [OpError.code]
  split at h
  · cases h
  split at h <;> cases h

theorem readErrors_failsIn (s : State) : FailsIn [9] (readErrors s) := by
  intro e u h
  obtain ⟨rs, -, hend⟩ | ⟨err, herr, hend⟩ := readErrors_ok h
  · cases hend
  · cases hend; exact decodeErrors_errorIn _ _ _ herr

theorem rationalResult_errorIn {codes : List Nat} {x : Except OpError Rat} (h : ErrorIn codes x) :
    ErrorIn codes (rationalResult x) := by
  cases x with
  | ok q => exact errorIn_ok _ _
  | error e => exact errorIn_error (h e rfl)

/-- The error of a function operation is one of its own. -/
theorem exec_errorCode {i : Instr} {s t : State} {e : OpError} (hx : exec i s = .next t)
    (he : t.response.error = some e) : e.code ∈ errorCodes i := by
  cases i with
  | evalpoly d x cs =>
    exact function_errorCode hx he (exec_evalpoly d x cs s) (rationalResult_errorIn (evalPoly_errorIn _ _ _ _))
  | pshape now start rise tf hold gain cs =>
    exact function_errorCode hx he (exec_pshape now start rise tf hold gain cs s)
      (rationalResult_errorIn (pulseShape_errorIn _ _ _ _ _ _ _ _))
  | v2dac v ref m =>
    refine function_errorCode hx he (exec_v2dac v ref m s) ?_
    split
    next => exact errorIn_ok _ _
    next err h => exact errorIn_error (voltageToDac_errorIn _ _ _ _ err h)
  | encpdef n st w gain tf su =>
    refine function_errorCode hx he (exec_encpdef n st w gain tf su s) ?_
    split
    next => exact errorIn_ok _ _
    next err h => exact errorIn_error (encodePdef_errorIn _ _ _ _ _ _ _ err h)
  | encw a v b =>
    refine function_errorCode hx he (exec_encw a v b s) ?_
    split
    next => exact errorIn_ok _ _
    next err h => exact errorIn_error (encodeWrite_errorIn _ _ _ _ err h)
  | deccherr m =>
    refine function_errorCode hx he (exec_deccherr m s) ?_
    split
    next => exact errorIn_ok _ _
    next err h => exact errorIn_error (decodeErrors_errorIn _ _ err h)
  | packpair a b => exact function_errorCode hx he (exec_packpair_checked a b s) ((strictness_errorIn _ _).map _)
  | packtable l => exact function_errorCode hx he (exec_packtable_checked l s) ((strictness_errorIn _ _).map _)
  | mkwaveid l a => exact function_errorCode hx he (exec_mkwaveid_checked l a s) ((strictness_errorIn _ _).map _)
  | illegalFn b => exact function_errorCode hx he (exec_illegalFn b s) (errorIn_error List.mem_cons_self)
  | synth l cs => exact function_errorCode hx he (exec_synth l cs s) (errorIn_ok _ _)
  | unpackpair w => exact function_errorCode hx he (exec_unpackpair w s) (errorIn_ok _ _)
  | unwaveid w => exact function_errorCode hx he (exec_unwaveid w s) (errorIn_ok _ _)
  | decpdef r0 r1 r2 r3 =>
    refine function_errorCode hx he (exec_decpdef r0 r1 r2 r3 s) ?_
    split <;> exact errorIn_ok _ _
  | version => exact command_errorCode hx he (exec_version s) (failsIn_done _ _ _)
  | reset => exact command_errorCode hx he (exec_reset s) (failsIn_done _ _ _)
  | errq => exact command_errorCode hx he (exec_errq s) (failsIn_done _ _ _)
  | regdump | chen | illegalFrame => cases hx
  | stage v => exact writeCommand_errorCode hx he (exec_stage v s)
  | chsel c => exact writeCommand_errorCode hx he (exec_chsel c s)
  | commitPdef a => exact writeCommand_errorCode hx he (exec_commitPdef a s)
  | commitWave a => exact writeCommand_errorCode hx he (exec_commitWave a s)
  | commitDc a => exact writeCommand_errorCode hx he (exec_commitDc a s)
  | commitMisc a => exact writeCommand_errorCode hx he (exec_commitMisc a s)
  | uwritePdef w => exact writeCommand_errorCode hx he (exec_uwritePdef w s)
  | uwriteWave w => exact writeCommand_errorCode hx he (exec_uwriteWave w s)
  | uwriteDc w => exact writeCommand_errorCode hx he (exec_uwriteDc w s)
  | uwriteMisc w => exact writeCommand_errorCode hx he (exec_uwriteMisc w s)
  | readPdef a => exact readCommand_errorCode hx he (exec_readPdef a s)
  | readWave a => exact readCommand_errorCode hx he (exec_readWave a s)
  | readMisc a => exact readCommand_errorCode hx he (exec_readMisc a s)
  | regwritePdef a v => exact writeCommand_errorCode hx he (exec_regwritePdef a v s)
  | regwriteWave a v => exact writeCommand_errorCode hx he (exec_regwriteWave a v s)
  | regwriteDc a v => exact writeCommand_errorCode hx he (exec_regwriteDc a v s)
  | regwriteMisc a v => exact writeCommand_errorCode hx he (exec_regwriteMisc a v s)
  | clearpdef => exact writeCommand_errorCode hx he (exec_clearpdef s)
  | clearwave => exact writeCommand_errorCode hx he (exec_clearwave s)
  | selectch c => exact command_errorCode hx he (exec_selectch c s) (selectChannel_failsIn c _)
  | writepdef w st gain tf su entry =>
    exact command_errorCode hx he (exec_writepdef w st gain tf su entry s) (writePdef_failsIn w st gain tf su entry _)
  | findslot =>
    refine command_errorCode hx he (exec_findslot s) fun err u h => ?_
    split at h <;> cases h
  | writewave start samples all =>
    exact command_errorCode hx he (exec_writewave start samples all s) (writeTable_failsIn start samples all _)
  | readwave start length =>
    exact command_errorCode hx he (exec_readwave start length s) (readTable_failsIn start length _)
  | readerrs => exact command_errorCode hx he (exec_readerrs s) (readErrors_failsIn _)

/-! ### The channel selected (R138) -/

theorem channelOperand_of_lt {P : Profile} {n : Nat} (h : n < P.cMaxChannels) :
    channelOperand P (.channel n) = .ok n := by
  have hrange : 0 ≤ (n : Int) ∧ (n : Int) < P.cMaxChannels := by omega
  simp only [channelOperand, if_pos hrange, Int.toNat_natCast]

theorem channelOperand_outside {P : Profile} {c : Int} (h : c < 0 ∨ (P.cMaxChannels : Int) ≤ c) :
    channelOperand P (.channel c) = .error (.invalidChannel c ((P.cMaxChannels : Int) - 1)) := by
  have hrange : ¬ (0 ≤ c ∧ c < P.cMaxChannels) := by omega
  simp only [channelOperand, if_neg hrange]

/-- A channel argument that passes the host's check is selected and recorded. -/
theorem exec_selectch_of_selects {s : State} {arg : ChannelArg} {n : Nat} {sel : Selection}
    (hoperand : channelOperand s.profile arg = .ok n) (hselects : selectionOf s.profile n = some sel) :
    exec (.selectch arg) s = .next ((selectedAs n sel s.start).succeed .done) := by
  refine (exec_selectch arg s).trans (runCommand_of_ok (e := .done .done (selectedAs n sel s.start)) ?_)
  simp only [selectChannel, start_profile, hoperand, selectAndRecord_of_selects (s := s.start) hselects, written]

/-! ### The channel errors read (R129, R137) -/

/-- Where every mask fits, `READERRS` answers their reports, for one query. -/
theorem readerrs_counts {s : State} (h : ∀ km ∈ s.errorMapping, km.2.toNat < 2 ^ s.profile.cMaxChannels) :
    ∃ t rs, exec .readerrs s = .next t ∧ CountsErrors s t s.errorMapping rs := by
  have hdecoded := decodeErrors_of_lt h
  have hbody : readErrors s.start = .ok (.done
      (.counted (s.errorMapping.flatMap (entryReports s.profile.cMaxChannels))
        (s.errorMapping.flatMap (entryReports s.profile.cMaxChannels)).length) (devErrq s.start)) := by
    have hmapping : s.start.errorMapping = s.errorMapping := rfl
    simp only [readErrors, start_profile, hmapping, hdecoded]
  have hend := (underway_start s).asked (exchange_asked (frame0 s.profile .errq) [] s.start)
  refine ⟨_, s.errorMapping.flatMap (entryReports s.profile.cMaxChannels),
    (exec_readerrs s).trans (runCommand_of_ok hbody), ?_⟩
  exact
    { returns := ⟨rfl, rfl⟩
      decoded := deccherr_answers h
      count := by simp only [List.length_flatMap, length_entryReports]
      link := ⟨rfl, rfl⟩
      flags := (hend.succeed _).flags
      host := (hend.succeed _).host
      block := (exchange_asked (frame0 s.profile .errq) [] s.start).block.of_start.succeed _
      cache := rfl }

/-- The first mask with a bit that has no channel, where there is one (R107). -/
theorem exists_first_mask {n : Nat} {m : List (String × Word)} (h : ¬ ∀ km ∈ m, km.2.toNat < 2 ^ n) :
    ∃ before after k mask, m = before ++ (k, mask) :: after ∧ (∀ km ∈ before, km.2.toNat < 2 ^ n)
      ∧ 2 ^ n ≤ mask.toNat := by
  obtain ⟨km, hkm⟩ : ∃ km, m.find? (fun km => decide (2 ^ n ≤ km.2.toNat)) = some km := by
    rw [← Option.isSome_iff_exists, List.find?_isSome]
    simpa using h
  obtain ⟨hmask, before, after, hm, hbefore⟩ := List.find?_eq_some_iff_append.1 hkm
  exact ⟨before, after, km.1, km.2, hm, by simpa using hbefore, by simpa using hmask⟩

end Sys2Proof.Machine

open Sys2Proof Sys2Proof.Machine

/-- Settles O51: the check of the argument, then the selection and the record; and `InvalidChannel` is an error of no
other operation. -/
theorem selectchSelects : Obligations.SelectchSelects := by
  refine ⟨fun s arg n sel hP harg => ?selects, fun s c hc => ?outside, fun i s t v b hx he => ?only⟩
  case selects =>
    obtain ⟨hoperand, hselects⟩ : channelOperand s.profile arg = .ok n ∧ selectionOf s.profile n = some sel := by
      obtain ⟨rfl, hn, rfl⟩ | ⟨rfl, rfl, rfl⟩ := harg
      · exact ⟨channelOperand_of_lt hn, selectionOf_channel hn⟩
      · exact ⟨rfl, selectionOf_chAll hP.chAll_ge⟩
    have hend := ((underway_start s).selectedAs n sel).succeed .done
    have hreads := (sameReads_start s).trans (sameReads_selectedAs n sel s.start)
    exact ⟨_, exec_selectch_of_selects hoperand hselects, ⟨rfl, rfl⟩, hend.flags, hend.host, ⟨rfl, rfl⟩, rfl, rfl, rfl,
      ⟨hreads.contexts.pdef, hreads.contexts.wram⟩, ⟨hreads.common.dc, hreads.common.misc⟩⟩
  case outside =>
    refine fails_of_check (exec_selectch (.channel c) s) ?_
    simp only [selectChannel, start_profile, channelOperand_outside hc]
  case only =>
    have hcode : 4 ∈ errorCodes i := exec_errorCode hx he
    cases i with
    | selectch arg => exact ⟨arg, rfl⟩
    | _ => simp [errorCodes] at hcode

/-- Settles O59: every mask fits where there are 32 channels; in general every mask fits, or there is a first that does
not, and the query of a `READERRS` that fails on it stands in its probes. -/
theorem readerrsCounts : Obligations.ReaderrsCounts := by
  refine ⟨fun s hn => ?all, fun s => ?any⟩
  case all =>
    obtain ⟨q, hq, hexchanged, -⟩ := errq_completes s
    obtain ⟨t, rs, hx, hcounts⟩ := readerrs_counts (s := s) fun km _ => by rw [hn]; exact km.2.isLt
    exact ⟨t, q, _, rs, hx, hq, hexchanged.returns, hcounts⟩
  case any =>
    obtain ⟨q, hq, hexchanged, -⟩ := errq_completes s
    refine ⟨q, _, hq, hexchanged.returns, ?_⟩
    by_cases hfit : ∀ km ∈ s.errorMapping, km.2.toNat < 2 ^ s.profile.cMaxChannels
    · exact .inl ⟨hfit, readerrs_counts hfit⟩
    · obtain ⟨before, after, k, mask, hm, hbefore, hmask⟩ := exists_first_mask hfit
      have hbody : readErrors s.start = .ok (.failed
          (.badOperand .mask (.num mask.toNat) (.atMost (2 ^ s.profile.cMaxChannels - 1)))
          (s.start.probedTo (devErrq s.start))) := by
        have hmapping : s.start.errorMapping = before ++ (k, mask) :: after := hm
        simp only [readErrors, start_profile, hmapping, decodeErrors_of_first_ge hbefore hmask]
      refine .inr ⟨before, after, k, mask, hm, hbefore, hmask, fails_of_probed (exec_readerrs s) hbody,
        _, (exec_readerrs s).trans (runCommand_of_ok hbody), ?_⟩
      exact hexchanged.link.1.symm
end

section
/-! PROOFS. The exceptions (R140 to R154): what an operation that ends with an error leaves behind, the operands outside
a function's domain, the addresses checked before the first byte, the illegal request, and the handshake. -/

namespace Sys2Proof.Machine

open Sys2Proof

/-! ### An operation that ends with an error leaves no trace (R154) -/

/-- The body of a command, run from a blank response in `s`, fails only in that state, with the reads it has made kept
aside. -/
def FailsAside (s : State) (x : Except Refusal Ending) : Prop :=
  ∀ e u, x = .ok (.failed e u) → ∃ v, u = s.start.probedTo v

/-- Nothing has been read at the start, so nothing is kept aside there. -/
theorem start_probedTo_start (s : State) : s.start.probedTo s.start = s.start := rfl

/-- A body without errors. -/
theorem FailsIn.failsAside {s : State} {x : Except Refusal Ending} (h : FailsIn [] x) : FailsAside s x :=
  fun e u hx => absurd (h e u hx) List.not_mem_nil

/-- A check that fails before the first command is sent. -/
theorem failsAside_check (s : State) (e : OpError) : FailsAside s (.ok (.failed e s.start)) := by
  rintro _ _ ⟨⟩
  exact ⟨s.start, (start_probedTo_start s).symm⟩

theorem failsAside_refused (s : State) (r : Refusal) : FailsAside s (.error r) := by
  rintro _ _ ⟨⟩

theorem selectChannel_failsAside (c : ChannelArg) (s : State) : FailsAside s (selectChannel c s.start) := by
  rw [selectChannel]
  split
  · exact failsAside_check s _
  · exact (written_failsIn _).failsAside

theorem writeTable_failsAside (start : Nat) (samples : List Nat) (all : Bool) (s : State) :
    FailsAside s (writeTable start samples all s.start) := by
  rw [writeTable]
  split
  · exact failsAside_check s _
  split
  · exact failsAside_refused s _
  · exact (written_failsIn _).failsAside

theorem readTable_failsAside (start length : Nat) (s : State) : FailsAside s (readTable start length s.start) := by
  rw [readTable]
  split
  · exact failsAside_check s _
  split
  · exact (failsIn_done _ _ _).failsAside
  split
  · exact failsAside_refused s _
  · exact (failsIn_done _ _ _).failsAside

/-- The scan has been read when the encoding fails (R131). -/
theorem writePdef_failsAside (w : WaveOperand) (st : Nat) (gain tf : Rat) (su : Nat) (entry : Option Nat) (s : State) :
    FailsAside s (writePdef w st gain tf su entry s.start) := by
  intro e u h
  obtain ⟨n, t, -, ⟨err, -, hend⟩ | ⟨v, writes, ws, -, -, hend⟩⟩ := writePdef_ok h
  · cases hend; exact ⟨t, rfl⟩
  · cases hend

/-- The masks have been read when their decoding fails (R137). -/
theorem readErrors_failsAside (s : State) : FailsAside s (readErrors s.start) := by
  intro e u h
  obtain ⟨rs, -, hend⟩ | ⟨err, -, hend⟩ := readErrors_ok h
  · cases hend
  · cases hend; exact ⟨devErrq s.start, rfl⟩

/-- A function operation whose value is an error ends with it, and touches no state (R18). -/
theorem fails_of_error {i : Instr} {s : State} {e : OpError} (hi : exec i s = runFunction (.error e) s) :
    Fails i s e := by
  unfold Fails
  rw [hi]
  exact runFunction_error s e

section

variable {i : Instr} {s t : State} {e : OpError}

theorem function_fails {f : Except OpError (Result × List Warning)} (hx : exec i s = .next t)
    (he : t.response.error = some e) (hi : exec i s = runFunction f s) : Fails i s e := by
  obtain ⟨r, ws, -, rfl⟩ | ⟨err, hf, rfl⟩ := runFunction_next (hi.symm.trans hx)
  · cases he
  · obtain rfl : err = e := Option.some.inj he
    exact fails_of_error (hf ▸ hi)

theorem command_fails {f : State → Except Refusal Ending} (hx : exec i s = .next t)
    (he : t.response.error = some e) (hi : exec i s = runCommand f s) (hf : FailsAside s (f s.start)) :
    Fails i s e := by
  obtain ⟨x, hend, rfl⟩ := runCommand_next (hi.symm.trans hx)
  cases x with
  | done r u => cases he
  | failed err u =>
    obtain rfl : err = e := Option.some.inj he
    obtain ⟨v, rfl⟩ := hf err u hend
    exact fails_of_probed hi hend

end

/-- EVERY ERROR LEAVES NO TRACE: only the operations with an error code can fail; of these the functions touch no state,
and the composite sequences fail in the state they started in. -/
theorem exec_fails {i : Instr} {s t : State} {e : OpError} (hx : exec i s = .next t)
    (he : t.response.error = some e) : Fails i s e := by
  have hcode : e.code ∈ errorCodes i := exec_errorCode hx he
  cases i with
  | evalpoly | pshape | v2dac | packpair | packtable | mkwaveid | encpdef | encw | deccherr =>
    exact function_fails hx he rfl
  | illegalFn opsel => exact function_fails hx he (exec_illegalFn opsel s)
  | selectch c => exact command_fails hx he (exec_selectch c s) (selectChannel_failsAside c s)
  | writepdef w st gain tf su entry =>
    exact command_fails hx he (exec_writepdef w st gain tf su entry s) (writePdef_failsAside w st gain tf su entry s)
  | writewave start samples all =>
    exact command_fails hx he (exec_writewave start samples all s) (writeTable_failsAside start samples all s)
  | readwave start length =>
    exact command_fails hx he (exec_readwave start length s) (readTable_failsAside start length s)
  | readerrs => exact command_fails hx he (exec_readerrs s) (readErrors_failsAside s)
  | _ => exact absurd hcode List.not_mem_nil

/-! ### Operands outside the domain of a function (R145) -/

theorem evalPoly_of_lt (P : Profile) {d : Nat} (x : Rat) {cs : List Rat} (h : cs.length < d) :
    evalPoly P d x cs = .error (.badOperand .degree (.num d) (.atMost cs.length)) := if_pos h

section Pshape

variable (P : Profile) (now start : Int) {rise hold : Int} {tf : Rat} (gain : Rat) (cs : List Rat)

theorem pulseShape_of_riseTicks (h : rise ≤ 0) :
    pulseShape P now start rise tf hold gain cs = .error (.badOperand .riseTicks (.num rise) .positive) := if_pos h

theorem pulseShape_of_timeFactor (hr : 0 < rise) (h : tf ≤ 0) :
    pulseShape P now start rise tf hold gain cs = .error (.badOperand .timeFactor (.num tf) .positive) := by
  rw [pulseShape, if_neg hr.not_ge, if_pos h]

theorem pulseShape_of_holdTicks (hr : 0 < rise) (hf : 0 < tf) (h : hold < 0) :
    pulseShape P now start rise tf hold gain cs = .error (.badOperand .holdTicks (.num hold) .nonNegative) := by
  rw [pulseShape, if_neg hr.not_ge, if_neg hf.not_ge, if_pos h]

end Pshape

theorem voltageToDac_of_nonpos (P : Profile) (v : Rat) {ref : Rat} (m : RefMode) (h : ref ≤ 0) :
    voltageToDac P v ref m = .error (.badOperand .referenceVoltage (.num ref) .positive) := if_pos h

theorem encodeWrite_of_not_selector {P : Profile} {b : Byte} (h : b ∉ writeSelectors P) (a v : Nat) :
    encodeWrite P a v b = .error (.badOperand .commandByte (.num b.toNat) (.oneOf (writeSelectors P))) := if_neg h

/-- An evaluator with an error ends with it. -/
theorem fails_rational {i : Instr} {s : State} {v : Except OpError Rat} {e : OpError}
    (hi : exec i s = runFunction (rationalResult v) s) (hv : v = .error e) : Fails i s e := by
  subst hv
  exact fails_of_error hi

theorem encpdef_fails {s : State} {e st : Nat} {w : WaveOperand} {gain tf : Rat} {su : Nat} {err : OpError}
    (h : encodePdef s.profile e st w gain tf su = .error err) : Fails (.encpdef e st w gain tf su) s err :=
  fails_of_error (by rw [exec_encpdef, h])

/-! ### Addresses checked before the first byte (R142, R144) -/

/-- The entry is checked before the form of `wave` (R102). -/
theorem encodePdef_of_entry_ge {P : Profile} {e : Nat} (he : P.nSlots ≤ e) (st : Nat) (w : WaveOperand) (gain tf : Rat)
    (su : Nat) : encodePdef P e st w gain tf su = .error (.invalidAddress .entry e ((P.nSlots : Int) - 1)) := if_pos he

/-- A `WRITEPDEF` at a given slot fails as `ENCPDEF` does there. -/
theorem writepdef_given_fails {s : State} {e st : Nat} {w : WaveOperand} {gain tf : Rat} {su : Nat} {err : OpError}
    (h : encodePdef s.profile e st w gain tf su = .error err) : Fails (.writepdef w st gain tf su (some e)) s err :=
  fails_of_probed (exec_writepdef w st gain tf su (some e) s) (writePdef_error (s := s.start) (t := s.start) rfl h)

theorem tableWords_of_odd (P : Profile) {start : Nat} (samples : List Nat) (h : start % 2 = 1) :
    tableWords P start samples = .error (.alignmentError start) := if_pos h

theorem tableWords_of_gt {P : Profile} {start : Nat} {samples : List Nat} (heven : start % 2 = 0)
    (h : P.waveRamCapacity < start + roundUpEven samples.length) :
    tableWords P start samples = .error (.invalidAddress .startAddressPlusLength
      ((start + roundUpEven samples.length : Nat) : Int) P.waveRamCapacity) := by
  rw [tableWords, if_neg (by omega), if_pos h]

/-- A table that fails its checks fails the `WRITEWAVE`, whether it broadcasts or not (R133). -/
theorem writewave_fails {s : State} {start : Nat} {samples : List Nat} {e : OpError}
    (h : tableWords s.profile start samples = .error e) (all : Bool) : Fails (.writewave start samples all) s e :=
  fails_of_check (exec_writewave start samples all s) (by rw [writeTable, start_profile, h])

theorem readwave_fails {s : State} {start length : Nat} (h : s.profile.waveRamCapacity < start + length) :
    Fails (.readwave start length) s
      (.invalidAddress .startAddressPlusLength ((start + length : Nat) : Int) s.profile.waveRamCapacity) :=
  fails_of_check (exec_readwave start length s) (if_pos h)

/-- `AlignmentError` is an error of `WRITEWAVE` alone (R142). -/
theorem eq_writewave_of_alignmentError {i : Instr} {s t : State} {v : Nat} (hx : exec i s = .next t)
    (he : t.response.error = some (.alignmentError v)) : ∃ start samples all, i = .writewave start samples all := by
  have hcode : 6 ∈ errorCodes i := exec_errorCode hx he
  cases i with
  | writewave start samples all => exact ⟨start, samples, all, rfl⟩
  | _ => simp [errorCodes] at hcode

/-! ### The handshake (R147, R150) -/

theorem tokenPresent_iff {token : List Byte} {lines : List Line} :
    tokenPresent token lines = true ↔ token <:+: lines.flatten := decide_eq_true_iff

theorem handshakeError_nil : handshakeError [] = some .noDevice := rfl

theorem handshakeError_of_tokens {lines : List Line} (hne : lines ≠ [])
    (h : Config.versionToken1 <:+: lines.flatten ∧ Config.versionToken2 <:+: lines.flatten) :
    handshakeError lines = none := by
  rw [handshakeError, if_neg hne, if_pos]
  simpa only [Bool.and_eq_true, tokenPresent_iff] using h

theorem handshakeError_of_no_tokens {lines : List Line} (hne : lines ≠ [])
    (h : ¬ (Config.versionToken1 <:+: lines.flatten ∧ Config.versionToken2 <:+: lines.flatten)) :
    handshakeError lines = some (.versionMismatch lines) := by
  rw [handshakeError, if_neg hne, if_neg]
  simpa only [Bool.and_eq_true, tokenPresent_iff] using h

theorem next_handshake_ready {lines : List Line} (h : handshakeError lines = none) :
    Session.next .versionChecking (.handshake lines) = .ready := by
  simp only [Session.next, h]

theorem next_handshake_mismatch {lines : List Line} (h : handshakeError lines = some (.versionMismatch lines)) :
    Session.next .versionChecking (.handshake lines) = .versionMismatch := by
  simp only [Session.next, h]

theorem next_handshake_nil : Session.next .versionChecking (.handshake []) = .noDevice := rfl

/-- A transport failure disconnects in any state of the session. -/
theorem next_transportFailure (st : Session) : Session.next st .transportFailure = .disconnected := by
  cases st <;> rfl

end Sys2Proof.Machine

open Sys2Proof Sys2Proof.Machine

/-- Settles O7: the state that a failing operation answers is that of `exec_fails`, by the determinism of `exec`. -/
theorem errorsLeaveNoTrace : Obligations.ErrorsLeaveNoTrace := by
  intro i s t hx herror
  obtain ⟨e, he⟩ := Option.ne_none_iff_exists'.mp herror
  obtain ⟨t', hx', ⟨hresult, -, hwarnings⟩, hframe⟩ := exec_fails hx he
  obtain rfl : t' = t := Host.Outcome.next.inj (hx'.symm.trans hx)
  exact ⟨hframe.block, hframe.host, hframe.cache, hframe.link, hresult, hwarnings⟩

/-- Settles O37: each domain check is the first branch, after the checks before it, of its function. -/
theorem functionDomainErrors : Obligations.FunctionDomainErrors := by
  intro s
  refine ⟨fun d x cs hd => ?evalpoly, fun now start rise tf hold gain cs => ?pshape, fun v ref m href => ?v2dac,
    fun e st w gain tf su he hw => ?encpdef, fun a v b hpdef hwave hdc hmisc => ?encw,
    fun k mask rest hmask => ?deccherr⟩
  case evalpoly => exact fails_rational (exec_evalpoly d x cs s) (evalPoly_of_lt s.profile x hd)
  case pshape =>
    have hexec := exec_pshape now start rise tf hold gain cs s
    exact ⟨fun hr => fails_rational hexec (pulseShape_of_riseTicks _ _ _ _ _ hr),
      fun hr hf => fails_rational hexec (pulseShape_of_timeFactor _ _ _ _ _ hr hf),
      fun hr hf hh => fails_rational hexec (pulseShape_of_holdTicks _ _ _ _ _ hr hf hh)⟩
  case v2dac => exact fails_of_error (by rw [exec_v2dac, voltageToDac_of_nonpos _ _ _ href])
  case encpdef => exact encpdef_fails (encodePdef_of_wrong_wave he hw st gain tf su)
  case encw =>
    have hb : b ∉ writeSelectors s.profile := by
      simp only [writeSelectors, List.mem_cons, List.not_mem_nil, or_false, not_or]
      exact ⟨hpdef, hwave, hdc, hmisc⟩
    exact fails_of_error (by rw [exec_encw, encodeWrite_of_not_selector hb]; rfl)
  case deccherr =>
    have hdecode : decodeErrors s.profile ((k, mask) :: rest) = _ :=
      decodeErrors_of_first_ge (before := []) (List.forall_mem_nil _) hmask
    exact fails_of_error (by rw [exec_deccherr, hdecode])

/-- Settles O55: alignment, then capacity, then entry, each in the state before the first byte; and the table of error
codes for the operations that raise `AlignmentError`. -/
theorem addressChecksFirst : Obligations.AddressChecksFirst := by
  refine ⟨fun s start samples all hodd => ?odd, fun i s t v hx he => eq_writewave_of_alignmentError hx he, ?table,
    fun s start length hcap => readwave_fails hcap, fun s e st w gain tf su he => ?entry⟩
  case odd => exact writewave_fails (tableWords_of_odd _ samples hodd) all
  case table =>
    rintro s start samples all _ heven rfl hcap
    exact writewave_fails (tableWords_of_gt heven hcap) all
  case entry =>
    have hentry := encodePdef_of_entry_ge he st w gain tf su
    exact ⟨encpdef_fails hentry, writepdef_given_fails hentry⟩

/-- Settles O13: the decoder's last row, and the meanings of the two illegal requests. -/
theorem unassignedOpselIsIllegal : Obligations.UnassignedOpselIsIllegal :=
  ⟨fun _ _ operands hopsel => decodeFn_of_opselIllegal (decide_eq_true hopsel) operands,
    fun opsel s => fails_of_error (exec_illegalFn opsel s), exec_illegalFrame⟩

/-- Settles O60: zero lines, lines with both tokens, and lines that lack one. -/
theorem handshakeVerdicts : Obligations.HandshakeVerdicts := by
  refine ⟨next_handshake_nil, handshakeError_nil, fun lines hne => ?lines, next_transportFailure⟩
  by_cases htokens : Config.versionToken1 <:+: lines.flatten ∧ Config.versionToken2 <:+: lines.flatten
  · have hnone := handshakeError_of_tokens hne htokens
    simp [hnone, next_handshake_ready hnone, htokens]
  · have hmismatch := handshakeError_of_no_tokens hne htokens
    simp [hmismatch, next_handshake_mismatch hmismatch, htokens]
end
